-- ==== Sys2Proof/Word.lean ====
section
/-! DEFINITION. The word width and the word type (spec/00_scope.md R7, R9, R10). -/

namespace Sys2Proof

/-- `W`, the width in bits of every register value and of the data ports, at the spec's instance value 64
(R7, decision D1; notes/assumptions/1.md). -/
abbrev W : Nat := 64

/-- A register value: a `W`-bit pattern, bit 0 the least significant (R9, R10). -/
abbrev Word := BitVec W

/-- `ONES` of R11: every bit set. -/
abbrev ones : Word := BitVec.allOnes W

/-- The signed reading of a pattern, two's complement over `W` bits; it matters only when a value is printed (R10). -/
def signedReading (v : Word) : Int := v.toInt

end Sys2Proof
end

