-- ==== Sys2Proof/Machine/BitRange.lean ====
section
/-! DEFINITION. Masked read and masked write of a bit span (spec/40_bit_range.md R86 to R89; `lowmask` is R11). The
functions hold for every width `w`; the machine uses them at `W`. Every operation is bitwise (R90). -/

namespace Sys2Proof.Machine

/-- `lowmask(n)`: bits `[0, n)` set and the rest clear; `lowmask(w)` is all ones (R11). -/
def lowmask {w : Nat} (n : Nat) : BitVec w := ~~~(BitVec.allOnes w <<< n)

/-- `extract(v, s, e)`: clear everything at or above `e`, then shift right logically by `s` (R86). -/
def extractField {w : Nat} (v : BitVec w) (s e : Nat) : BitVec w := (v &&& lowmask e) >>> s

/-- `trunc(x, s, e)`: reduce a field value to the field's width (R87). -/
def truncField {w : Nat} (x : BitVec w) (s e : Nat) : BitVec w := x &&& lowmask (e - s)

/-- `fieldmask(s, e)`: bits `[s, e)` set (R88). -/
def fieldMask {w : Nat} (s e : Nat) : BitVec w := lowmask e &&& ~~~(lowmask s)

/-- `keep(s, e)`: the bits outside the field (R88). -/
def keepMask {w : Nat} (s e : Nat) : BitVec w := ~~~(fieldMask s e)

/-- `insert(old, s, e, x)`: install the truncated field value, keep the other bits of `old` (R88). -/
def insertField {w : Nat} (old : BitVec w) (s e : Nat) (x : BitVec w) : BitVec w :=
  (old &&& keepMask s e) ||| (truncField x s e <<< s)

/-- `bit_get(v, n)`, 0 or 1 as a word (R89). -/
def bitGet {w : Nat} (v : BitVec w) (n : Nat) : BitVec w := extractField v n (n + 1)

/-- A bit as a word, zero-extended. -/
def bitWord {w : Nat} (bit : Bool) : BitVec w := if bit then 1 else 0

/-- `bit_put(v, n, bit)` (R89). -/
def bitPut {w : Nat} (v : BitVec w) (n : Nat) (bit : Bool) : BitVec w := insertField v n (n + 1) (bitWord bit)

end Sys2Proof.Machine
end

