-- ==== Sys2Proof/Config.lean ====
section
/-! DEFINITION. What is fixed before power-on: the closed set of register kinds and the model's parameters
(spec/00_scope.md R7, spec/41_variants.md R112). The map `CFG` stands in Sys2Proof/Decode.lean and the per-kind
constants in Sys2Proof/Machine/Variants.lean. -/

namespace Sys2Proof

/-- The closed set of register kinds (R112). -/
inductive Kind where
  /-- floating-point control/status -/
  | fcsr
  /-- vendor ID, read-only -/
  | mvendorid
  /-- ISA and extensions -/
  | misa
  deriving DecidableEq, Repr

namespace Config

/-- `AW`: the request address field has 12 bits (R7, R40). -/
abbrev addrBits : Nat := 12

/-- `BW`: a bit-bound value field has 8 bits (R7, decision D18). -/
abbrev boundBits : Nat := 8

/-- `FCSR_RESET`: the power-on value of FCSR is 0 (R7, R24). -/
def fcsrReset : Word := 0

/-- `MISA_RESET`: the power-on value of MISA, a parameter the spec leaves OPEN (R27, R109, gap N2). It has no body that
a proof could use, so whatever is proved holds for every value (notes/assumptions/3.md). -/
opaque misaReset : Word

/-- `MVENDORID_VALUE`: the construction-time value of MVENDORID, a parameter the spec leaves OPEN (R26, R108, gap N1;
notes/assumptions/4.md). -/
opaque mvendoridValue : Word

end Config
end Sys2Proof
end

