-- ==== Sys2Proof/Syntax.lean ====
section
/-! DEFINITION. Requests as the ports carry them, and the nine operations as syntax (spec/30_encoding.md R60, R63, R64).
One constructor of `Instr` per row of spec/opcode_table.json. -/

namespace Sys2Proof

/-- What the requester presents on the input ports: the command word `req_cmd` and the write data `req_wdata`
(R60, R61). -/
structure Request where
  /-- `req_cmd`: op code, address and bounds (R62) -/
  cmd : BitVec 36
  /-- `req_wdata` -/
  wdata : Word
  deriving DecidableEq, Repr

/-- One endpoint of a bit-range request; the value is a non-negative integer, exact, never wrapping (R80). -/
inductive Bound where
  | unbounded
  | included (b : Nat)
  | excluded (b : Nat)
  deriving DecidableEq, Repr

/-- The nine operations (R63). An address `a` and a bit index `n` are the unsigned numbers of R65; that they fit
their fields is Sys2Proof/WellFormed.lean's check. -/
inductive Instr where
  /-- READ: read a whole register (R121) -/
  | read (a : Nat)
  /-- WRITE: write a whole register (R122) -/
  | write (a : Nat) (v : Word)
  /-- LOOKUP: resolve an address to its kind (R123) -/
  | lookup (a : Nat)
  /-- RESET_ALL: restore every register to its power-on value (R124) -/
  | resetAll
  /-- RESET_REG: restore one register to its power-on value (R125) -/
  | resetReg (a : Nat)
  /-- READ_BIT: read bit `n` (R140) -/
  | readBit (a n : Nat)
  /-- WRITE_BIT: set or clear bit `n` (R141) -/
  | writeBit (a n : Nat) (bit : Bool)
  /-- READ_BITS: read the bit field between two bounds (R142) -/
  | readBits (a : Nat) (sb eb : Bound)
  /-- WRITE_BITS: write the bit field between two bounds (R143) -/
  | writeBits (a : Nat) (sb eb : Bound) (x : Word)
  deriving DecidableEq, Repr

end Sys2Proof
end

