-- ==== Sys2Proof/Machine/State.lean ====
section
/-! DEFINITION. The machine's state as plain data, its state after reset, and why a step can stop
(spec/10_state.md R20, R21; spec/30_encoding.md R60, R61, R68; spec/70_reset_and_hazards.md R180, R181). -/

namespace Sys2Proof.Machine

/-- The status of a response: success or one of exactly three errors (R68, R160). -/
inductive Status where
  | ok
  | unmappedRegister
  | readOnlyRegister
  | invalidBitRange
  deriving DecidableEq, Repr

/-- A response: `rsp_status` and `rsp_rdata` (R60, R61). -/
structure Response where
  status : Status
  rdata : Word
  deriving DecidableEq, Repr

/-- The block stops with a fault on no request: "it never stops or hangs on any request" (R160). The type is closed and
EMPTY, so no meaning can raise one; an error is a response (notes/assumptions/16.md). -/
inductive Fault where
  deriving DecidableEq, Repr

/-- Why a request has no step. -/
inductive Refusal where
  /-- An instruction whose meaning is not modelled, raised by no arm of `exec`. Safe. -/
  | notModelled (mnemonic : String)
  /-- A reserved command word (R70: "A model refuses such a request"), raised by `step` when the decoder gives no
  instruction. Safe: nothing is claimed of what follows. -/
  | reservedEncoding (cmd : BitVec 36)
  deriving DecidableEq, Repr

/-- The registers of the baseline configuration (R20, R21), and the block's ports (R60) as what they carry: the
requests waiting on `req_cmd` and `req_wdata`, the coming samples of `por`, and the response on `rsp_status` and
`rsp_rdata`. The port fields are the model's own way to hold its environment (notes/assumptions/5.md); the block's
own state is the three registers (R20, R31). -/
structure State where
  /-- `CSR[FCSR]` (R24) -/
  fcsr : Word
  /-- `CSR[MISA]` (R27) -/
  misa : Word
  /-- `CSR[MVENDORID]` (R26) -/
  mvendorid : Word
  /-- requests the requester presents, the next one first (R48, R61) -/
  requests : List Request
  /-- what the `por` pin shows at this step and the following ones; low once the list is used up -/
  por : List Bool
  /-- the response of the step before, `none` where that step served no request -/
  response : Option Response
  deriving DecidableEq, Repr

/-- The state right after power-on (R180, R181): every register at its power-on value, nothing presented on any port. -/
def State.reset : State :=
  { fcsr := Config.fcsrReset
    misa := Config.misaReset
    mvendorid := Config.mvendoridValue
    requests := []
    por := []
    response := none }

end Sys2Proof.Machine
end

