-- ==== Sys2Proof/Machine/Flags.lean ====
section
/-! DEFINITION. Status codes. The block has no flags or condition codes and stores no status (spec/10_state.md R32): a
response's status code is all there is, and no request writes an FCSR flag as a side effect (R25, R32). -/

namespace Sys2Proof.Machine

/-- `rsp_status`: the code of each status (R68). -/
def statusCode : Status → BitVec 2
  | .ok => 0
  | .unmappedRegister => 1
  | .readOnlyRegister => 2
  | .invalidBitRange => 3

end Sys2Proof.Machine
end

