-- ==== Sys2Proof/Machine/Operands.lean ====
section
/-! DEFINITION. Bit-range operands: bounds to canonical half-open intervals, and which intervals are valid
(spec/40_bit_range.md R81 to R85, R89). All arithmetic is exact (R90). `w` is the word width. -/

namespace Sys2Proof.Machine

/-- `canon_start` (R81). -/
def canonStart : Bound → Nat
  | .excluded b => b + 1
  | .included b => b
  | .unbounded => 0

/-- `canon_end` (R82). -/
def canonEnd (w : Nat) : Bound → Nat
  | .excluded b => b
  | .included b => b + 1
  | .unbounded => w

/-- `canon` (R85). -/
def canon (w : Nat) (sb eb : Bound) : Nat × Nat := (canonStart sb, canonEnd w eb)

/-- `valid(s, e)`: the interval is not empty and lies within the word (R83). -/
abbrev ValidInterval (w s e : Nat) : Prop := s < e ∧ e ≤ w

/-- A bit index is valid exactly when it is below the word width (R89). -/
abbrev ValidIndex (w n : Nat) : Prop := n < w

end Sys2Proof.Machine
end

