-- ==== Sys2Proof/WellFormed.lean ====
section
/-! DEFINITION. Which instructions fit the fields of the command word (spec/30_encoding.md R62, R65). An address that
does not fit 12 bits names no register (R41): no request can carry it. -/

namespace Sys2Proof

/-- A bound's value fits its 8-bit field (R65, R80). -/
def Bound.wf : Bound → Bool
  | .unbounded => true
  | .included b => decide (b < 2 ^ Config.boundBits)
  | .excluded b => decide (b < 2 ^ Config.boundBits)

/-- An address fits its 12-bit field (R40, R65). -/
def addrWf (a : Nat) : Bool := decide (a < 2 ^ Config.addrBits)

/-- A bit index fits its 8-bit field (R65). -/
def indexWf (n : Nat) : Bool := decide (n < 2 ^ Config.boundBits)

/-- Every operand fits the field that carries it. -/
def Instr.wf : Instr → Bool
  | .read a => addrWf a
  | .write a _ => addrWf a
  | .lookup a => addrWf a
  | .resetAll => true
  | .resetReg a => addrWf a
  | .readBit a n => addrWf a && indexWf n
  | .writeBit a n _ => addrWf a && indexWf n
  | .readBits a sb eb => addrWf a && sb.wf && eb.wf
  | .writeBits a sb eb _ => addrWf a && sb.wf && eb.wf

/-- `Instr.wf` as a proposition. -/
abbrev Instr.WellFormed (i : Instr) : Prop := i.wf = true

end Sys2Proof
end

