-- ==== Sys2Proof/Decode.lean ====
section
/-! DEFINITION. The address map and its decode (spec/20_memory.md R47, spec/30_encoding.md R66, R72), the request decoder
(R62 to R65, R70, R71) and, after it, the encoder. -/

namespace Sys2Proof

/-! ### Addresses -/

/-- `FCSR = 0x003` (R72). -/
def addrFCSR : Nat := 0x003

/-- `MISA = 0x301` (R72). -/
def addrMISA : Nat := 0x301

/-- `MVENDORID = 0xF11` (R72). -/
def addrMVENDORID : Nat := 0xF11

/-- `CFG_BASE`: the mapped addresses and the kind at each (R7, R47; notes/assumptions/2.md). -/
def cfgBase : List (Nat × Kind) :=
  [(addrFCSR, .fcsr), (addrMISA, .misa), (addrMVENDORID, .mvendorid)]

/-- The kind a map `CFG` gives an address: the whole address is compared, nothing is truncated or folded (R41, R66). -/
def decodeAddrIn (cfg : List (Nat × Kind)) (a : Nat) : Option Kind := cfg.lookup a

/-- `decode(a)` of R66, in the baseline configuration; `none` is `NONE`. -/
def decodeAddr (a : Nat) : Option Kind := decodeAddrIn cfgBase a

/-! ### Fields of a request -/

/-- `OP = cmd[3:0]` (R62). -/
def Request.op (r : Request) : Nat := (r.cmd.extractLsb' 0 4).toNat

/-- `ADDR = cmd[15:4]` (R62), the unsigned address of R65. -/
def Request.addr (r : Request) : Nat := (r.cmd.extractLsb' 4 12).toNat

/-- `SK = cmd[17:16]` (R62). -/
def Request.startKind (r : Request) : Nat := (r.cmd.extractLsb' 16 2).toNat

/-- `SB = cmd[25:18]` (R62), a bound value or a bit index (R65). -/
def Request.startValue (r : Request) : Nat := (r.cmd.extractLsb' 18 8).toNat

/-- `EK = cmd[27:26]` (R62). -/
def Request.endKind (r : Request) : Nat := (r.cmd.extractLsb' 26 2).toNat

/-- `EB = cmd[35:28]` (R62). -/
def Request.endValue (r : Request) : Nat := (r.cmd.extractLsb' 28 8).toNat

/-- The bound a kind code and a value field stand for (R64); kind 3 is reserved (R70). -/
def decodeBound (kind value : Nat) : Option Bound :=
  match kind with
  | 0 => some .unbounded
  | 1 => some (.included value)
  | 2 => some (.excluded value)
  | _ => none

/-- The start bound of a READ_BITS or WRITE_BITS request. -/
def Request.startBound (r : Request) : Option Bound := decodeBound r.startKind r.startValue

/-- The end bound of a READ_BITS or WRITE_BITS request. -/
def Request.endBound (r : Request) : Option Bound := decodeBound r.endKind r.endValue

/-- The instruction a request stands for; `none` for the reserved encodings of R70, which are the only ones (R71).
A field that R63 does not list for an op is not read. -/
def decode (r : Request) : Option Instr :=
  match r.op with
  | 0x0 => some (.read r.addr)
  | 0x1 => some (.write r.addr r.wdata)
  | 0x2 => some (.lookup r.addr)
  | 0x3 => some .resetAll
  | 0x4 => some (.resetReg r.addr)
  | 0x5 => some (.readBit r.addr r.startValue)
  | 0x6 => some (.writeBit r.addr r.startValue (r.wdata.getLsbD 0))
  | 0x7 =>
    match r.startBound, r.endBound with
    | some sb, some eb => some (.readBits r.addr sb eb)
    | _, _ => none
  | 0x8 =>
    match r.startBound, r.endBound with
    | some sb, some eb => some (.writeBits r.addr sb eb r.wdata)
    | _, _ => none
  | _ => none

/-! ### The encoder -/

/-- The op code of each operation (R63). -/
def Instr.opcode : Instr → Nat
  | .read _ => 0x0
  | .write _ _ => 0x1
  | .lookup _ => 0x2
  | .resetAll => 0x3
  | .resetReg _ => 0x4
  | .readBit _ _ => 0x5
  | .writeBit _ _ _ => 0x6
  | .readBits _ _ _ => 0x7
  | .writeBits _ _ _ _ => 0x8

/-- `cmd = OP | ADDR << 4 | SK << 16 | SB << 18 | EK << 26 | EB << 28` (R62). -/
def cmdWord (op addr sk sb ek eb : Nat) : BitVec 36 :=
  BitVec.ofNat 36 (op ||| addr <<< 4 ||| sk <<< 16 ||| sb <<< 18 ||| ek <<< 26 ||| eb <<< 28)

/-- The kind code of a bound (R64). -/
def Bound.kindCode : Bound → Nat
  | .unbounded => 0
  | .included _ => 1
  | .excluded _ => 2

/-- The value field of a bound; ignored, and encoded as 0, for `Unbounded` (R64). -/
def Bound.value : Bound → Nat
  | .unbounded => 0
  | .included b => b
  | .excluded b => b

/-- The command word of an instruction, ignored fields 0 (R62, R63). -/
def Instr.cmd (i : Instr) : BitVec 36 :=
  match i with
  | .read a => cmdWord i.opcode a 0 0 0 0
  | .write a _ => cmdWord i.opcode a 0 0 0 0
  | .lookup a => cmdWord i.opcode a 0 0 0 0
  | .resetAll => cmdWord i.opcode 0 0 0 0 0
  | .resetReg a => cmdWord i.opcode a 0 0 0 0
  | .readBit a n => cmdWord i.opcode a 0 n 0 0
  | .writeBit a n _ => cmdWord i.opcode a 0 n 0 0
  | .readBits a sb eb => cmdWord i.opcode a sb.kindCode sb.value eb.kindCode eb.value
  | .writeBits a sb eb _ => cmdWord i.opcode a sb.kindCode sb.value eb.kindCode eb.value

/-- The write data of an instruction, 0 where R63 says it is ignored; WRITE_BIT's bit is bit 0 (R65). -/
def Instr.wdata : Instr → Word
  | .write _ v => v
  | .writeBit _ _ bit => if bit then 1 else 0
  | .writeBits _ _ _ x => x
  | .read _ => 0
  | .lookup _ => 0
  | .resetAll => 0
  | .resetReg _ => 0
  | .readBit _ _ => 0
  | .readBits _ _ _ => 0

/-- The request that presents a well-formed instruction. -/
def encode (i : Instr) : Request := ⟨i.cmd, i.wdata⟩

/-! ### The host's numbering of an instruction's bits -/

/-- A request from one number: its first word is the 36-bit command word (bits 35..0) and its second word the data word
(bits 99..36); the bits from `nbits` up are 0 (notes/assumptions/11.md). -/
def Request.ofTableWord (nbits w : Nat) : Request :=
  ⟨BitVec.ofNat 36 (w % 2 ^ nbits), BitVec.ofNat W (w % 2 ^ nbits / 2 ^ 36)⟩

/-- The instruction the decoder reads from an instruction numbered as spec/opcode_table.json numbers it. -/
def decodeTableWord (nbits w : Nat) : Option Instr := decode (Request.ofTableWord nbits w)

end Sys2Proof
end

