-- ==== Sys2Proof/Machine/Variants.lean ====
section
/-! DEFINITION. The register capability and the constants in which one kind differs from another
(spec/41_variants.md R100 to R113). -/

namespace Sys2Proof.Machine

/-! ### Per-kind constants (R111) -/

/-- `POWER_ON_k` (R106, R108, R109). -/
def powerOnValue : Kind → Word
  | .fcsr => Config.fcsrReset
  | .mvendorid => Config.mvendoridValue
  | .misa => Config.misaReset

/-- `WMASK_k`, the bits `write_value` may change (R106 to R110). -/
def wmask : Kind → Word
  | .fcsr => ones
  | .mvendorid => 0
  | .misa => ones

/-- `RO_k`, the File-level read-only flag (R106, R108, R109). -/
def readOnly : Kind → Bool
  | .fcsr => false
  | .mvendorid => true
  | .misa => false

/-- The kind code LOOKUP answers (R67). -/
def kindCode : Kind → Nat
  | .fcsr => 0
  | .mvendorid => 1
  | .misa => 2

/-! ### Storage: each kind has its own register (R20, R30) -/

/-- `CSR[k]`. -/
def State.csr (s : State) : Kind → Word
  | .fcsr => s.fcsr
  | .mvendorid => s.mvendorid
  | .misa => s.misa

/-- `CSR[k] <- v`. -/
def State.setCsr (s : State) (k : Kind) (v : Word) : State :=
  match k with
  | .fcsr => { s with fcsr := v }
  | .mvendorid => { s with mvendorid := v }
  | .misa => { s with misa := v }

/-! ### The four operations of the capability (R100) -/

/-- `construct(k, init)` (R104). -/
def State.construct (s : State) (k : Kind) (init : Word) : State := s.setCsr k init

/-- `reset(k)`: the whole value is restored, past the write-enable mask (R103). -/
def State.resetKind (s : State) (k : Kind) : State := s.setCsr k (powerOnValue k)

/-- `read_value(k)` (R101). -/
def State.readValue (s : State) (k : Kind) : Word := s.csr k

/-- `write_value(k, v)`: exactly the bits in `WMASK_k` change (R102). -/
def State.writeValue (s : State) (k : Kind) (v : Word) : State :=
  s.setCsr k ((s.csr k &&& ~~~(wmask k)) ||| (v &&& wmask k))

/-! ### The whole file: every mapped kind -/

/-- `reset(k)` for every kind `k` mapped in a `CFG` (R124). -/
def State.resetMapped (cfg : List (Nat × Kind)) (s : State) : State :=
  cfg.foldl (fun t entry => t.resetKind entry.2) s

/-- Construction at power-on: `construct(k, POWER_ON_k)` for every mapped kind `k` (R104, R180). -/
def State.constructMapped (cfg : List (Nat × Kind)) (s : State) : State :=
  cfg.foldl (fun t entry => t.construct entry.2 (powerOnValue entry.2)) s

end Sys2Proof.Machine
end

