-- ==== Sys2Proof/Machine/Ops.lean ====
section
/-! DEFINITION. The operations every meaning is built from: answering, raising an error, the checks in the order of
spec/60_exceptions.md R165 (address, then read-only, then range), the derived accessors of spec/41_variants.md R105, and
what a step does with the ports. -/

namespace Sys2Proof.Machine

/-- What a meaning answers. -/
abbrev Result := Host.Outcome State Fault Refusal

/-! ### Responses -/

/-- The state with a response on the response port. -/
def State.withResponse (s : State) (st : Status) (v : Word) : State := { s with response := some ⟨st, v⟩ }

/-- `respond(OK, v)` (R11). -/
def State.respondOk (s : State) (v : Word) : Result := .next (s.withResponse .ok v)

/-- `raise E()`: the one way an error is taken. The request ends with status `E` and `rdata` 0, and no register changes
(R11, R69, R163). The block has no trap state to save anything in, no vector and no return (R166, R167). -/
def State.raise (s : State) (e : Status) : Result := .next (s.withResponse e 0)

/-! ### The checks, outermost first (R165) -/

/-- `k <- resolve(a)`, then the rest of the request (R120). -/
def State.withKind (s : State) (a : Nat) (body : Kind → Result) : Result :=
  match decodeAddr a with
  | none => s.raise .unmappedRegister
  | some k => body k

/-- The File-level read-only check, before dispatch to the kind (R122, R162). -/
def State.ifWritable (s : State) (k : Kind) (body : Result) : Result :=
  if readOnly k then s.raise .readOnlyRegister else body

/-- The range check of a bit index (R89, R164). -/
def State.ifIndex (s : State) (n : Nat) (body : Result) : Result :=
  if ValidIndex W n then body else s.raise .invalidBitRange

/-- The canonical interval of two bounds and its range check, made before any mask or shift (R84, R164). -/
def State.withInterval (s : State) (sb eb : Bound) (body : Nat → Nat → Result) : Result :=
  if ValidInterval W (canonStart sb) (canonEnd W eb) then body (canonStart sb) (canonEnd W eb)
  else s.raise .invalidBitRange

/-! ### The derived accessors, the same for every kind (R105) -/

/-- `read_bits(k, s, e)`. -/
def State.readBits (s : State) (k : Kind) (start fin : Nat) : Word := extractField (s.readValue k) start fin

/-- `write_bits(k, s, e, x)`: one read-modify-write. -/
def State.writeBits (s : State) (k : Kind) (start fin : Nat) (x : Word) : State :=
  s.writeValue k (insertField (s.readValue k) start fin x)

/-- `read_bit(k, n)`. -/
def State.readBit (s : State) (k : Kind) (n : Nat) : Word := bitGet (s.readValue k) n

/-- `write_bit(k, n, bit)`: one read-modify-write. -/
def State.writeBit (s : State) (k : Kind) (n : Nat) (bit : Bool) : State :=
  s.writeValue k (bitPut (s.readValue k) n bit)

/-! ### The ports, as a step finds them -/

/-- Whether the `por` pin is high at this step. -/
def State.porHigh (s : State) : Bool := s.por.headD false

/-- The state once this step has sampled `por`; no response is presented yet. -/
def State.sampled (s : State) : State := { s with por := s.por.tail, response := none }

/-- The state once the request at the head has been taken. -/
def State.withRequests (s : State) (rest : List Request) : State := { s with requests := rest }

/-- Power-on (R180): construction of every mapped register; no request is accepted meanwhile, so those presented stay. -/
def State.powerOn (s : State) : State := State.constructMapped cfgBase s

end Sys2Proof.Machine
end

