-- ==== Sys2Proof/Machine/FieldOps.lean ====
section
/-! DEFINITION. The bit and bit-range operations READ_BIT, WRITE_BIT, READ_BITS and WRITE_BITS
(spec/43_field_ops.md R140 to R143). -/

namespace Sys2Proof.Machine

/-- READ_BIT (R140). -/
def execReadBit (a n : Nat) (s : State) : Result :=
  s.withKind a fun k => s.ifIndex n (s.respondOk (s.readBit k n))

/-- WRITE_BIT (R141). -/
def execWriteBit (a n : Nat) (bit : Bool) (s : State) : Result :=
  s.withKind a fun k => s.ifWritable k (s.ifIndex n ((s.writeBit k n bit).respondOk 0))

/-- READ_BITS (R142). -/
def execReadBits (a : Nat) (sb eb : Bound) (s : State) : Result :=
  s.withKind a fun k => s.withInterval sb eb fun start fin => s.respondOk (s.readBits k start fin)

/-- WRITE_BITS (R143). -/
def execWriteBits (a : Nat) (sb eb : Bound) (x : Word) (s : State) : Result :=
  s.withKind a fun k =>
    s.ifWritable k (s.withInterval sb eb fun start fin => (s.writeBits k start fin x).respondOk 0)

end Sys2Proof.Machine
end

