-- ==== Sys2Proof/Machine/FileOps.lean ====
section
/-! DEFINITION. The whole-register operations READ, WRITE, LOOKUP, RESET_ALL and RESET_REG
(spec/42_file_ops.md R121 to R125). -/

namespace Sys2Proof.Machine

/-- READ (R121). -/
def execRead (a : Nat) (s : State) : Result :=
  s.withKind a fun k => s.respondOk (s.readValue k)

/-- WRITE (R122). -/
def execWrite (a : Nat) (v : Word) (s : State) : Result :=
  s.withKind a fun k => s.ifWritable k ((s.writeValue k v).respondOk 0)

/-- LOOKUP (R123): the kind code, zero-extended. -/
def execLookup (a : Nat) (s : State) : Result :=
  s.withKind a fun k => s.respondOk (BitVec.ofNat W (kindCode k))

/-- RESET_ALL (R124): every mapped register, all at once; it cannot fail. -/
def execResetAll (s : State) : Result :=
  (State.resetMapped cfgBase s).respondOk 0

/-- RESET_REG (R125): never ReadOnlyRegister, since a reset is not a write. -/
def execResetReg (a : Nat) (s : State) : Result :=
  s.withKind a fun k => (s.resetKind k).respondOk 0

end Sys2Proof.Machine
end

