-- ==== Sys2Proof/Machine/Dispatch.lean ====
section
/-! DEFINITION. One arm per operation of spec/opcode_table.json (spec/30_encoding.md R63). -/

namespace Sys2Proof.Machine

def exec (i : Instr) (s : State) : Host.Outcome State Fault Refusal :=
  match i with
  | .read a => Sys2Proof.Machine.execRead a s
  | .write a v => Sys2Proof.Machine.execWrite a v s
  | .lookup a => Sys2Proof.Machine.execLookup a s
  | .resetAll => Sys2Proof.Machine.execResetAll s
  | .resetReg a => Sys2Proof.Machine.execResetReg a s
  | .readBit a n => Sys2Proof.Machine.execReadBit a n s
  | .writeBit a n bit => Sys2Proof.Machine.execWriteBit a n bit s
  | .readBits a sb eb => Sys2Proof.Machine.execReadBits a sb eb s
  | .writeBits a sb eb x => Sys2Proof.Machine.execWriteBits a sb eb x s

end Sys2Proof.Machine
end

