-- ==== Sys2Proof/Machine/Step.lean ====
section
/-! DEFINITION. One step of the block: power-on if the `por` pin is high, else the next request, else nothing
(spec/30_encoding.md R61, spec/70_reset_and_hazards.md R180). -/

namespace Sys2Proof.Machine

/-- Serve one request (R61): a reserved command word has no step (R70). -/
def serve (r : Request) (s : State) : Host.Outcome State Fault Refusal :=
  match decode r with
  | none => .refused (.reservedEncoding r.cmd)
  | some i => exec i s

/-- One step. While `por` is high the block constructs itself and accepts no request (R180). With nothing presented it
waits (notes/assumptions/7.md). -/
def step (s : State) : Host.Outcome State Fault Refusal :=
  if s.porHigh then .next s.sampled.powerOn
  else
    match s.requests with
    | [] => .next s.sampled
    | r :: rest => serve r (s.sampled.withRequests rest)

/-- `s` with one request presented before all others and `por` low at its step, so that the very next step serves it
(notes/assumptions/6.md). -/
def State.withFetchWord (s : State) (nbits w : Nat) : State :=
  { s with por := false :: s.por, requests := Request.ofTableWord nbits w :: s.requests }

end Sys2Proof.Machine
end

