-- ==== Sys2Proof/Machine/Pseudo.lean ====
section
/-! DEFINITION. The named-field pseudo-ops of FCSR and MISA, each with its expansion to one core request
(spec/30_encoding.md R74, spec/43_field_ops.md R150, R151). The field positions are the spec's "from general knowledge"
(spec/10_state.md R25, R27; notes/assumptions/14.md); nothing else in the model rests on them. -/

namespace Sys2Proof.Machine

/-- The five accrued-exception flags of FCSR (R25). -/
inductive FcsrFlag where
  | nx
  | uf
  | of
  | dz
  | nv
  deriving DecidableEq, Repr

/-- The bit of each flag (R25). -/
def flagBit : FcsrFlag → Nat
  | .nx => 0
  | .uf => 1
  | .of => 2
  | .dz => 3
  | .nv => 4

/-- The pseudo-ops of R150 and R151. An extension letter is given by its distance from 'A'. -/
inductive PseudoOp where
  | fcsrReadFflags
  | fcsrWriteFflags (x : Word)
  | fcsrReadFrm
  | fcsrWriteFrm (x : Word)
  | fcsrReadFlag (flag : FcsrFlag)
  | fcsrWriteFlag (flag : FcsrFlag) (bit : Bool)
  | misaReadExt
  | misaWriteExt (x : Word)
  | misaReadMxl
  | misaWriteMxl (x : Word)
  | misaReadExtBit (letter : Fin 26)
  | misaWriteExtBit (letter : Fin 26) (bit : Bool)
  deriving DecidableEq, Repr

/-- The one request a pseudo-op stands for (R150, R151). -/
def expand : PseudoOp → Instr
  | .fcsrReadFflags => .readBits addrFCSR (.included 0) (.excluded 5)
  | .fcsrWriteFflags x => .writeBits addrFCSR (.included 0) (.excluded 5) x
  | .fcsrReadFrm => .readBits addrFCSR (.included 5) (.excluded 8)
  | .fcsrWriteFrm x => .writeBits addrFCSR (.included 5) (.excluded 8) x
  | .fcsrReadFlag flag => .readBit addrFCSR (flagBit flag)
  | .fcsrWriteFlag flag bit => .writeBit addrFCSR (flagBit flag) bit
  | .misaReadExt => .readBits addrMISA (.included 0) (.excluded 26)
  | .misaWriteExt x => .writeBits addrMISA (.included 0) (.excluded 26) x
  | .misaReadMxl => .readBits addrMISA (.included (W - 2)) .unbounded
  | .misaWriteMxl x => .writeBits addrMISA (.included (W - 2)) .unbounded x
  | .misaReadExtBit letter => .readBit addrMISA letter
  | .misaWriteExtBit letter bit => .writeBit addrMISA letter bit

end Sys2Proof.Machine
end

