-- ==== Sys2Proof/Safety.lean ====
section
/-! DEFINITION. What counts as a safe run, in the terms the statements use: the requester's duties, the invariant of the
vendor ID, and how a request is classified (spec/00_scope.md glossary, spec/60_exceptions.md R165,
spec/70_reset_and_hazards.md R184). -/

namespace Sys2Proof

/-- The address an operation names; RESET_ALL names none (R63). -/
def Instr.address : Instr → Option Nat
  | .read a => some a
  | .write a _ => some a
  | .lookup a => some a
  | .resetAll => none
  | .resetReg a => some a
  | .readBit a _ => some a
  | .writeBit a _ _ => some a
  | .readBits a _ _ => some a
  | .writeBits a _ _ _ => some a

/-- A write-type op: WRITE, WRITE_BIT or WRITE_BITS (glossary). -/
def Instr.isWriteType : Instr → Bool
  | .write _ _ => true
  | .writeBit _ _ _ => true
  | .writeBits _ _ _ _ => true
  | .read _ => false
  | .lookup _ => false
  | .resetAll => false
  | .resetReg _ => false
  | .readBit _ _ => false
  | .readBits _ _ _ => false

/-- RESET_ALL or RESET_REG. -/
def Instr.isReset : Instr → Bool
  | .resetAll => true
  | .resetReg _ => true
  | .read _ => false
  | .write _ _ => false
  | .lookup _ => false
  | .readBit _ _ => false
  | .writeBit _ _ _ => false
  | .readBits _ _ _ => false
  | .writeBits _ _ _ _ => false

/-- A bit request whose index or interval lies outside the word or is empty (R83, R89, R164). -/
def Instr.badRange : Instr → Bool
  | .readBit _ n => decide (W ≤ n)
  | .writeBit _ n _ => decide (W ≤ n)
  | .readBits _ sb eb => decide (¬ Machine.ValidInterval W (Machine.canonStart sb) (Machine.canonEnd W eb))
  | .writeBits _ sb eb _ => decide (¬ Machine.ValidInterval W (Machine.canonStart sb) (Machine.canonEnd W eb))
  | .read _ => false
  | .write _ _ => false
  | .lookup _ => false
  | .resetAll => false
  | .resetReg _ => false

/-- The registers a request may change by R46: every one for RESET_ALL, the named one for a write-type op or RESET_REG,
none for a read-type op or LOOKUP. -/
def Instr.mayChange (i : Instr) (k : Kind) : Bool :=
  match i with
  | .resetAll => true
  | .write a _ => decide (decodeAddr a = some k)
  | .resetReg a => decide (decodeAddr a = some k)
  | .writeBit a _ _ => decide (decodeAddr a = some k)
  | .writeBits a _ _ _ => decide (decodeAddr a = some k)
  | .read _ => false
  | .lookup _ => false
  | .readBit _ _ => false
  | .readBits _ _ _ => false

/-- A reserved encoding, on the bits of the command word (R70, R71). -/
def Request.Reserved (r : Request) : Prop :=
  9 ≤ (r.cmd.extractLsb' 0 4).toNat ∨
    (((r.cmd.extractLsb' 0 4).toNat = 7 ∨ (r.cmd.extractLsb' 0 4).toNat = 8) ∧
      (r.cmd.extractLsb' 16 2 = 3#2 ∨ r.cmd.extractLsb' 26 2 = 3#2))

namespace Machine

/-- The requester's duty to present no reserved encoding (R184), over the requests waiting. -/
def State.Admissible (s : State) : Prop := ∀ r ∈ s.requests, ¬ r.Reserved

/-- No power-on is coming. -/
def State.PorLow (s : State) : Prop := ∀ level ∈ s.por, level = false

/-- The vendor ID holds its construction-time value (R22, R26). A step keeps it from every state that has it. -/
def State.VendorIdKept (s : State) : Prop := s.mvendorid = Config.mvendoridValue

/-- Every register reads the same in both states. -/
def State.SameRegisters (s t : State) : Prop := ∀ k, t.csr k = s.csr k

/-- What is still presented on the input ports is the same in both states. -/
def State.SameInputs (s t : State) : Prop := t.requests = s.requests ∧ t.por = s.por

/-- The meanings of a sequence of instructions one after another, each on the state the one before it left (R48). -/
def execInOrder : List Instr → State → Host.Outcome State Fault Refusal
  | [], s => .next s
  | i :: rest, s =>
    match exec i s with
    | .next t => execInOrder rest t
    | .fault f => .fault f
    | .refused f => .refused f

/-- The state after `n` steps, or how they stopped. -/
def runSteps (n : Nat) (s : State) : Host.Outcome State Fault Refusal := Host.Core.run Sys2Proof.core n s

end Machine
end Sys2Proof
end

