-- ==== Sys2Proof/Certificates/Slice0/Obligations.lean ====
section
/-! DEFINITION. The statements for the provers, from the numbered rules of spec/. Where a statement writes the whole next
state as `{ s with … }`, everything not listed is unchanged: that is its frame. The block has no byte memory (R40), so no
statement speaks of any. -/

open Sys2Proof Sys2Proof.Machine

/-! ### Encoding -/

/-- Words written out from the layout of R62 and the codes of R63 and R64 (vectors W1, W4, D2, E1, E13 and the reserved
G1 and G3) decode to what they stand for. -/
def Obligations.SampleWordsDecode : Prop :=
  decode ⟨0x000000030, 0⟩ = some (.read 0x003) ∧
  decode ⟨0x000000031, 5⟩ = some (.write 0x003 5) ∧
  decode ⟨0x000FC0036, 1⟩ = some (.writeBit 0x003 63 true) ∧
  decode ⟨0x088150038, 3⟩ = some (.writeBits 0x003 (.included 5) (.excluded 8) 3) ∧
  decode ⟨0x003FE0038, 1⟩ = some (.writeBits 0x003 (.excluded 255) .unbounded 1) ∧
  decode ⟨0x000000039, 0⟩ = none ∧
  decode ⟨0x000030037, 0⟩ = none

/-- Decoding the encoding of any well-formed instruction gives it back, at every operand value (R62 to R65). -/
def Obligations.DecodeEncodeRoundTrip : Prop :=
  ∀ i : Instr, i.WellFormed → decode (encode i) = some i

/-- Whatever the decoder reads fits its fields, so it can be presented again (R62, R65). -/
def Obligations.DecodedInstructionsAreWellFormed : Prop :=
  ∀ (r : Request) (i : Instr), decode r = some i → i.WellFormed ∧ decode (encode i) = some i

/-- R71: the decoder is total, reserved exactly where R71 says, and otherwise reads the op its op code names. -/
def Obligations.DecoderIsTotalAndReservesOnlyR71 : Prop :=
  ∀ r : Request,
    (decode r = none ↔ r.Reserved) ∧
    (∀ i, decode r = some i → i.opcode = (r.cmd.extractLsb' 0 4).toNat)

/-- R63, R64: a field that R63 does not list for an op, and the value field of an Unbounded bound, may hold anything. -/
def Obligations.IgnoredFieldsChangeNothing : Prop :=
  ∀ r q : Request, r.op = q.op →
    (r.op = 3 → decode r = decode q) ∧
    (r.op = 0 ∨ r.op = 2 ∨ r.op = 4 → r.addr = q.addr → decode r = decode q) ∧
    (r.op = 1 → r.addr = q.addr → r.wdata = q.wdata → decode r = decode q) ∧
    (r.op = 5 → r.addr = q.addr → r.startValue = q.startValue → decode r = decode q) ∧
    (r.op = 6 → r.addr = q.addr → r.startValue = q.startValue → r.wdata.getLsbD 0 = q.wdata.getLsbD 0 →
      decode r = decode q) ∧
    (r.op = 7 ∨ r.op = 8 → r.addr = q.addr →
      r.startKind = q.startKind → (r.startKind ≠ 0 → r.startValue = q.startValue) →
      r.endKind = q.endKind → (r.endKind ≠ 0 → r.endValue = q.endValue) →
      (r.op = 8 → r.wdata = q.wdata) → decode r = decode q)

/-- R66: the address decode of the baseline configuration, over every address, a wider one included (R41). -/
def Obligations.AddressDecodeIsTheBaselineMap : Prop :=
  ∀ a : Nat, decodeAddr a =
    if a = 0x003 then some .fcsr
    else if a = 0x301 then some .misa
    else if a = 0xF11 then some .mvendorid
    else none

/-! ### Constants -/

/-- R111: the per-kind constants in one table. -/
def Obligations.PerKindConstants : Prop :=
  (decodeAddr 0x003 = some .fcsr ∧ powerOnValue .fcsr = 0 ∧ wmask .fcsr = BitVec.allOnes W ∧
    readOnly .fcsr = false ∧ kindCode .fcsr = 0) ∧
  (decodeAddr 0xF11 = some .mvendorid ∧ powerOnValue .mvendorid = Config.mvendoridValue ∧ wmask .mvendorid = 0 ∧
    readOnly .mvendorid = true ∧ kindCode .mvendorid = 1) ∧
  (decodeAddr 0x301 = some .misa ∧ powerOnValue .misa = Config.misaReset ∧ wmask .misa = BitVec.allOnes W ∧
    readOnly .misa = false ∧ kindCode .misa = 2)

/-- R68: the status codes, and that these four are the whole response taxonomy. -/
def Obligations.StatusCodes : Prop :=
  statusCode .ok = 0 ∧ statusCode .unmappedRegister = 1 ∧ statusCode .readOnlyRegister = 2 ∧
  statusCode .invalidBitRange = 3 ∧
  ∀ st : Status, st = .ok ∨ st = .unmappedRegister ∨ st = .readOnlyRegister ∨ st = .invalidBitRange

/-! ### The bit-range algebra, at every word width `w` -/

/-- R81, R82, R83, R85: canonical bounds, exact at 255, and the three failure conditions. -/
def Obligations.BoundsCanonicalise : Prop :=
  (∀ b, canonStart (.excluded b) = b + 1 ∧ canonStart (.included b) = b) ∧ canonStart .unbounded = 0 ∧
  (∀ w b, canonEnd w (.excluded b) = b ∧ canonEnd w (.included b) = b + 1) ∧ (∀ w, canonEnd w .unbounded = w) ∧
  (∀ w sb eb, canon w sb eb = (canonStart sb, canonEnd w eb)) ∧
  (∀ w s e, ValidInterval w s e ↔ ¬ s ≥ e ∧ ¬ s ≥ w ∧ ¬ e > w)

/-- R86: bits `[0, e-s)` of a masked read are `v[e-1:s]`, and the bits above are 0. -/
def Obligations.ExtractTakesTheField : Prop :=
  ∀ (w : Nat) (v : BitVec w) (s e : Nat), ValidInterval w s e →
    ∀ i, (extractField v s e).getLsbD i = (decide (i < e - s) && v.getLsbD (s + i))

/-- R87, R88: bits `[s, e)` of a masked write are the low `e - s` bits of `x`, and its other bits are those of `old`. -/
def Obligations.InsertReplacesTheField : Prop :=
  ∀ (w : Nat) (old x : BitVec w) (s e : Nat), ValidInterval w s e →
    (truncField x s e).toNat = x.toNat % 2 ^ (e - s) ∧
    ∀ i, (insertField old s e x).getLsbD i =
      if s ≤ i ∧ i < e then x.getLsbD (i - s) else old.getLsbD i

/-- R91: the six laws of the algebra. -/
def Obligations.BitRangeAlgebraLaws : Prop :=
  ∀ (w : Nat) (old x y v : BitVec w),
    (∀ s e, ValidInterval w s e →
      extractField (insertField old s e x) s e = truncField x s e ∧
      (∀ i, ¬ (s ≤ i ∧ i < e) → (insertField old s e x).getLsbD i = old.getLsbD i) ∧
      insertField old s e (extractField old s e) = old ∧
      insertField (insertField old s e x) s e y = insertField old s e y) ∧
    (0 < w → extractField v 0 w = v ∧ insertField old 0 w x = x) ∧
    (∀ n m, n ≠ m → n < w → m < w →
      bitGet (bitPut v n true) n = 1 ∧ bitGet (bitPut v n true) m = bitGet v m)

/-! ### The capability -/

/-- R102: `write_value` changes exactly the bits of `CSR[k]` that are set in `WMASK_k`, and nothing else; FCSR and MISA have
no hard-wired bit, and every bit of MVENDORID is hard-wired. -/
def Obligations.WriteValueAppliesTheMask : Prop :=
  (∀ i, i < W → (wmask .fcsr).getLsbD i = true ∧ (wmask .misa).getLsbD i = true ∧
    (wmask .mvendorid).getLsbD i = false) ∧
  ∀ (s : State) (k : Kind) (v : Word),
    (∀ i, ((s.writeValue k v).csr k).getLsbD i =
      if (wmask k).getLsbD i then v.getLsbD i else (s.csr k).getLsbD i) ∧
    (∀ j, j ≠ k → (s.writeValue k v).csr j = s.csr j) ∧
    State.SameInputs s (s.writeValue k v) ∧ (s.writeValue k v).response = s.response

/-! ### Results, completion and frame of each operation -/

/-- READ (R121): its encoding, the value it answers from every state, the only error, and the corner cases: MVENDORID
answers its construction-time value and a register never written its power-on value. -/
def Obligations.ReadAnswersTheRegister : Prop :=
  (∀ r : Request, r.op = 0x0 → decode r = some (.read r.addr)) ∧
  (∀ s : State, s.VendorIdKept →
    exec (.read 0xF11) s = .next { s with response := some ⟨.ok, Config.mvendoridValue⟩ }) ∧
  (∀ a k, decodeAddr a = some k →
    exec (.read a) State.reset = .next { State.reset with response := some ⟨.ok, powerOnValue k⟩ }) ∧
  ∀ (a : Nat) (s : State),
    (∀ k, decodeAddr a = some k → exec (.read a) s = .next { s with response := some ⟨.ok, s.csr k⟩ }) ∧
    (decodeAddr a = none → exec (.read a) s = .next { s with response := some ⟨.unmappedRegister, 0⟩ })

/-- WRITE (R122): its encoding; FCSR and MISA store every bit, MVENDORID rejects, any other address is unmapped. -/
def Obligations.WriteStoresTheWholeValue : Prop :=
  (∀ r : Request, r.op = 0x1 → decode r = some (.write r.addr r.wdata)) ∧
  ∀ (v : Word) (s : State),
    exec (.write 0x003 v) s = .next { s with fcsr := v, response := some ⟨.ok, 0⟩ } ∧
    exec (.write 0x301 v) s = .next { s with misa := v, response := some ⟨.ok, 0⟩ } ∧
    exec (.write 0xF11 v) s = .next { s with response := some ⟨.readOnlyRegister, 0⟩ } ∧
    ∀ a, a ≠ 0x003 → a ≠ 0x301 → a ≠ 0xF11 →
      exec (.write a v) s = .next { s with response := some ⟨.unmappedRegister, 0⟩ }

/-- LOOKUP (R123): its encoding, and its answers with the kind codes of R67. -/
def Obligations.LookupAnswersTheKindCode : Prop :=
  (∀ r : Request, r.op = 0x2 → decode r = some (.lookup r.addr)) ∧
  ∀ s : State,
    exec (.lookup 0x003) s = .next { s with response := some ⟨.ok, 0⟩ } ∧
    exec (.lookup 0xF11) s = .next { s with response := some ⟨.ok, 1⟩ } ∧
    exec (.lookup 0x301) s = .next { s with response := some ⟨.ok, 2⟩ } ∧
    ∀ a, a ≠ 0x003 → a ≠ 0x301 → a ≠ 0xF11 →
      exec (.lookup a) s = .next { s with response := some ⟨.unmappedRegister, 0⟩ }

/-- RESET_ALL (R124): its encoding; every register is restored, from every state, and nothing can make it fail. -/
def Obligations.ResetAllRestoresEveryRegister : Prop :=
  (∀ r : Request, r.op = 0x3 → decode r = some .resetAll) ∧
  ∀ s : State, exec .resetAll s = .next
    { s with fcsr := 0, misa := Config.misaReset, mvendorid := Config.mvendoridValue, response := some ⟨.ok, 0⟩ }

/-- RESET_REG (R125): its encoding; one register is restored, a read-only one too; never ReadOnlyRegister. -/
def Obligations.ResetRegRestoresOneRegister : Prop :=
  (∀ r : Request, r.op = 0x4 → decode r = some (.resetReg r.addr)) ∧
  ∀ s : State,
    exec (.resetReg 0x003) s = .next { s with fcsr := 0, response := some ⟨.ok, 0⟩ } ∧
    exec (.resetReg 0x301) s = .next { s with misa := Config.misaReset, response := some ⟨.ok, 0⟩ } ∧
    exec (.resetReg 0xF11) s =
      .next { s with mvendorid := Config.mvendoridValue, response := some ⟨.ok, 0⟩ } ∧
    ∀ a, a ≠ 0x003 → a ≠ 0x301 → a ≠ 0xF11 →
      exec (.resetReg a) s = .next { s with response := some ⟨.unmappedRegister, 0⟩ }

/-- READ_BIT (R140): its encoding; the bit itself, zero-extended; an index at or past `W` is
InvalidBitRange, after the address check. -/
def Obligations.ReadBitAnswersTheBit : Prop :=
  (∀ r : Request, r.op = 0x5 → decode r = some (.readBit r.addr r.startValue)) ∧
  ∀ (a n : Nat) (s : State),
    (∀ k, decodeAddr a = some k → n < W →
      exec (.readBit a n) s = .next { s with response := some ⟨.ok, if (s.csr k).getLsbD n then 1 else 0⟩ }) ∧
    (∀ k, decodeAddr a = some k → W ≤ n →
      exec (.readBit a n) s = .next { s with response := some ⟨.invalidBitRange, 0⟩ }) ∧
    (decodeAddr a = none → exec (.readBit a n) s = .next { s with response := some ⟨.unmappedRegister, 0⟩ })

/-- WRITE_BIT (R141): its encoding; bit `n` takes the value, every other bit and every other register stays; the errors
in order. -/
def Obligations.WriteBitChangesOneBit : Prop :=
  (∀ r : Request, r.op = 0x6 → decode r = some (.writeBit r.addr r.startValue (r.wdata.getLsbD 0))) ∧
  ∀ (a n : Nat) (bit : Bool) (s : State),
    (∀ k, decodeAddr a = some k → readOnly k = false → n < W →
      ∃ t, exec (.writeBit a n bit) s = .next t ∧ t.response = some ⟨.ok, 0⟩ ∧
        (∀ m, (t.csr k).getLsbD m = if m = n then bit else (s.csr k).getLsbD m) ∧
        (∀ j, j ≠ k → t.csr j = s.csr j) ∧ State.SameInputs s t) ∧
    (∀ k, decodeAddr a = some k → readOnly k = false → W ≤ n →
      exec (.writeBit a n bit) s = .next { s with response := some ⟨.invalidBitRange, 0⟩ }) ∧
    (∀ k, decodeAddr a = some k → readOnly k = true →
      exec (.writeBit a n bit) s = .next { s with response := some ⟨.readOnlyRegister, 0⟩ }) ∧
    (decodeAddr a = none →
      exec (.writeBit a n bit) s = .next { s with response := some ⟨.unmappedRegister, 0⟩ })

/-- READ_BITS (R142): its encoding; the field, zero-extended; an invalid interval is InvalidBitRange, after the
address check. -/
def Obligations.ReadBitsAnswersTheField : Prop :=
  (∀ r : Request, r.op = 0x7 →
    (∀ sb eb, r.startBound = some sb → r.endBound = some eb → decode r = some (.readBits r.addr sb eb)) ∧
    (r.startKind = 3 ∨ r.endKind = 3 → decode r = none)) ∧
  ∀ (a : Nat) (sb eb : Bound) (s : State),
    (∀ k, decodeAddr a = some k → ValidInterval W (canonStart sb) (canonEnd W eb) →
      ∃ v : Word, exec (.readBits a sb eb) s = .next { s with response := some ⟨.ok, v⟩ } ∧
        ∀ m, v.getLsbD m =
          (decide (m < canonEnd W eb - canonStart sb) && (s.csr k).getLsbD (canonStart sb + m))) ∧
    (∀ k, decodeAddr a = some k → ¬ ValidInterval W (canonStart sb) (canonEnd W eb) →
      exec (.readBits a sb eb) s = .next { s with response := some ⟨.invalidBitRange, 0⟩ }) ∧
    (decodeAddr a = none →
      exec (.readBits a sb eb) s = .next { s with response := some ⟨.unmappedRegister, 0⟩ })

/-- WRITE_BITS (R143): its encoding; bits `[s, e)` take the low bits of `x`, every other bit and every other register
stays; the errors in order. -/
def Obligations.WriteBitsChangesTheField : Prop :=
  (∀ r : Request, r.op = 0x8 →
    (∀ sb eb, r.startBound = some sb → r.endBound = some eb → decode r = some (.writeBits r.addr sb eb r.wdata)) ∧
    (r.startKind = 3 ∨ r.endKind = 3 → decode r = none)) ∧
  ∀ (a : Nat) (sb eb : Bound) (x : Word) (s : State),
    (∀ k, decodeAddr a = some k → readOnly k = false → ValidInterval W (canonStart sb) (canonEnd W eb) →
      ∃ t, exec (.writeBits a sb eb x) s = .next t ∧ t.response = some ⟨.ok, 0⟩ ∧
        (∀ m, (t.csr k).getLsbD m =
          if canonStart sb ≤ m ∧ m < canonEnd W eb then x.getLsbD (m - canonStart sb)
          else (s.csr k).getLsbD m) ∧
        (∀ j, j ≠ k → t.csr j = s.csr j) ∧ State.SameInputs s t) ∧
    (∀ k, decodeAddr a = some k → readOnly k = false → ¬ ValidInterval W (canonStart sb) (canonEnd W eb) →
      exec (.writeBits a sb eb x) s = .next { s with response := some ⟨.invalidBitRange, 0⟩ }) ∧
    (∀ k, decodeAddr a = some k → readOnly k = true →
      exec (.writeBits a sb eb x) s = .next { s with response := some ⟨.readOnlyRegister, 0⟩ }) ∧
    (decodeAddr a = none →
      exec (.writeBits a sb eb x) s = .next { s with response := some ⟨.unmappedRegister, 0⟩ })

/-! ### Errors and frame, over all operations -/

/-- R165: of several errors a request reports the first of unmapped, read-only (write-type ops only) and invalid range
(bit requests only); RESET_ALL reports none. -/
def Obligations.ErrorsAreReportedInOrder : Prop :=
  ∀ (i : Instr) (s : State), ∃ t st v, exec i s = .next t ∧ t.response = some ⟨st, v⟩ ∧
    st = match i.address with
      | none => Status.ok
      | some a =>
        match decodeAddr a with
        | none => Status.unmappedRegister
        | some k =>
          if i.isWriteType = true ∧ readOnly k = true then Status.readOnlyRegister
          else if i.badRange = true then Status.invalidBitRange
          else Status.ok

/-- R163: a request that ends with an error status changes no state and answers `rdata` 0. -/
def Obligations.FailedRequestsChangeNothing : Prop :=
  ∀ (i : Instr) (s t : State) (st : Status) (v : Word),
    exec i s = .next t → t.response = some ⟨st, v⟩ → st ≠ .ok →
      t = { s with response := some ⟨st, 0⟩ }

/-- R69, the part on zero data: `rsp_rdata` is 0 on every error, and on every response of a write-type op or a reset. -/
def Obligations.ErrorAndWriteResponsesCarryZero : Prop :=
  ∀ (i : Instr) (s t : State) (st : Status) (v : Word),
    exec i s = .next t → t.response = some ⟨st, v⟩ →
      st ≠ .ok ∨ i.isWriteType = true ∨ i.isReset = true → v = 0

/-- R61, R160: every instruction completes from every state with exactly one response, and takes nothing off the ports. -/
def Obligations.EveryInstructionCompletes : Prop :=
  ∀ (i : Instr) (s : State), ∃ t r, exec i s = .next t ∧ t.response = some r ∧ State.SameInputs s t

/-- R30, R46: a request changes at most the registers R46 allows it: reads and LOOKUP none, RESET_ALL all, every other
operation the named one. -/
def Obligations.OnlyTheNamedRegisterChanges : Prop :=
  ∀ (i : Instr) (s t : State) (k : Kind),
    exec i s = .next t → i.mayChange k = false → t.csr k = s.csr k

/-- R46: repeating a request straight after itself leaves the same state and gives the same response. -/
def Obligations.RequestsAreIdempotent : Prop :=
  ∀ (i : Instr) (s t : State), exec i s = .next t → exec i t = .next t

/-- R31, R113: what a request at a mapped address answers, and what it leaves in the register it names, depend on the
request and that register alone, whatever any other register holds (so MISA's content affects nothing else, R28). -/
def Obligations.RegistersDoNotObserveEachOther : Prop :=
  ∀ (i : Instr) (a : Nat) (k : Kind) (s t : State),
    i.address = some a → decodeAddr a = some k → s.csr k = t.csr k →
      ∃ s' t', exec i s = .next s' ∧ exec i t = .next t' ∧ s'.response = t'.response ∧ s'.csr k = t'.csr k

/-! ### Relations between operations -/

/-- WRITE then READ of FCSR or MISA returns exactly the value, every bit of it (R24, R27, R122, vector S5). -/
def Obligations.WriteThenReadReturnsTheValue : Prop :=
  ∀ (a : Nat) (v : Word) (s : State), a = 0x003 ∨ a = 0x301 →
    ∃ t u, exec (.write a v) s = .next t ∧ exec (.read a) t = .next u ∧ u.response = some ⟨.ok, v⟩

/-- WRITE_BITS then READ_BITS of the same valid range of a writable register returns `x mod 2^(e-s)` (R143, vector S7). -/
def Obligations.BitRangeRoundTrip : Prop :=
  ∀ (a : Nat) (k : Kind) (sb eb : Bound) (x : Word) (s : State),
    decodeAddr a = some k → readOnly k = false → ValidInterval W (canonStart sb) (canonEnd W eb) →
      ∃ t u v, exec (.writeBits a sb eb x) s = .next t ∧ exec (.readBits a sb eb) t = .next u ∧
        u.response = some ⟨.ok, v⟩ ∧ v.toNat = x.toNat % 2 ^ (canonEnd W eb - canonStart sb)

/-- WRITE_BIT of 1 then READ_BIT answers 1, and READ_BIT of any other bit answers as before (R141, vector S8). -/
def Obligations.SingleBitRoundTrip : Prop :=
  ∀ (a : Nat) (k : Kind) (n m : Nat) (s : State),
    decodeAddr a = some k → readOnly k = false → n < W → m < W → m ≠ n →
      ∃ t u v z, exec (.writeBit a n true) s = .next t ∧
        exec (.readBit a n) t = .next u ∧ u.response = some ⟨.ok, 1⟩ ∧
        exec (.readBit a m) t = .next v ∧ exec (.readBit a m) s = .next z ∧ v.response = z.response

/-- `(U, U)` is the whole word: WRITE_BITS over it is WRITE and READ_BITS over it is READ (R142, R143), at every address. -/
def Obligations.FullRangeIsTheWholeRegister : Prop :=
  ∀ (a : Nat) (x : Word) (s : State),
    exec (.writeBits a .unbounded .unbounded x) s = exec (.write a x) s ∧
    exec (.readBits a .unbounded .unbounded) s = exec (.read a) s

/-- R89: single-bit access is the degenerate range `(In, In)`, errors included. -/
def Obligations.SingleBitIsTheDegenerateRange : Prop :=
  ∀ (a n : Nat) (bit : Bool) (s : State),
    exec (.readBit a n) s = exec (.readBits a (.included n) (.included n)) s ∧
    exec (.writeBit a n bit) s =
      exec (.writeBits a (.included n) (.included n) (if bit then 1 else 0)) s

/-! ### Reset and power-on -/

/-- R181: the registers after power-on, after RESET_ALL and, one register, after RESET_REG; `State.reset` is the state
after power-on. -/
def Obligations.ResetStateValues : Prop :=
  (State.reset.fcsr = 0 ∧ State.reset.misa = Config.misaReset ∧ State.reset.mvendorid = Config.mvendoridValue) ∧
  (∀ s : State, s.porHigh = true → ∃ t, step s = .next t ∧
    t.fcsr = 0 ∧ t.misa = Config.misaReset ∧ t.mvendorid = Config.mvendoridValue) ∧
  (∀ s : State, ∃ t, exec .resetAll s = .next t ∧
    t.fcsr = 0 ∧ t.misa = Config.misaReset ∧ t.mvendorid = Config.mvendoridValue) ∧
  (∀ s : State, (∃ t, exec (.resetReg 0x003) s = .next t ∧ t.fcsr = 0) ∧
    (∃ t, exec (.resetReg 0x301) s = .next t ∧ t.misa = Config.misaReset) ∧
    (∃ t, exec (.resetReg 0xF11) s = .next t ∧ t.mvendorid = Config.mvendoridValue))

/-- R182: the three reset laws. -/
def Obligations.ResetLaws : Prop :=
  ∀ s : State, ∃ t, exec .resetAll s = .next t ∧
    (∀ k, t.csr k = powerOnValue k) ∧
    exec .resetAll t = .next t ∧
    (∀ k, t.csr k = State.reset.csr k) ∧
    (∀ p, p.porHigh = true → ∃ q, step p = .next q ∧ State.SameRegisters q t)

/-- Power-on constructs every mapped register at its power-on value, and the step that does so accepts no request (R180).
That the requests then waiting are kept and not dropped (`t.requests = s.requests`), and that construction takes one step,
is the model's choice, notes/assumptions/8.md. -/
def Obligations.PowerOnConstructsAndAcceptsNothing : Prop :=
  ∀ s : State, s.porHigh = true →
    ∃ t, step s = .next t ∧ (∀ a k, decodeAddr a = some k → t.csr k = powerOnValue k) ∧ t.requests = s.requests

/-! ### The step -/

/-- With `por` low and a request presented that decodes to `i`, the step is `exec i` on the state with that request taken,
the `por` sample used up and no response yet (R61; the ports' form is the model's choice, notes/assumptions/5.md). -/
def Obligations.StepServesTheDecodedInstruction : Prop :=
  ∀ (s : State) (r : Request) (rest : List Request) (i : Instr),
    s.porHigh = false → s.requests = r :: rest → decode r = some i →
      step s = exec i { s with por := s.por.tail, requests := rest, response := none }

/-- R70: a reserved request is refused, and every other presented request is one of the ops and is served. -/
def Obligations.ReservedRequestsAreRefused : Prop :=
  ∀ (s : State) (r : Request) (rest : List Request),
    s.porHigh = false → s.requests = r :: rest →
      (r.Reserved → step s = .refused (.reservedEncoding r.cmd)) ∧
      (¬ r.Reserved → ∃ i t, decode r = some i ∧ step s = .next t ∧ t.response.isSome = true)

/-- With `por` low and nothing presented, a step leaves every register and presents no response (the model's choice,
notes/assumptions/7.md). -/
def Obligations.IdleStepKeepsEveryRegister : Prop :=
  ∀ s : State, s.porHigh = false → s.requests = [] →
    ∃ t, step s = .next t ∧ State.SameRegisters s t ∧ t.requests = [] ∧ t.response = none

/-- The word the host presents with `withFetchWord` is what the very next step serves (the model's own interface,
notes/assumptions/6.md and 11.md). -/
def Obligations.PresentedWordRunsNext : Prop :=
  ∀ (s : State) (nbits w : Nat) (i : Instr), decodeTableWord nbits w = some i →
    step (s.withFetchWord nbits w) = exec i { s with response := none }

/-- R126: a register's value changes only by a write-type request, a reset request or power-on, and by no failed one. -/
def Obligations.RegistersChangeOnlyByWritesResetsAndPowerOn : Prop :=
  ∀ (s t : State) (k : Kind), step s = .next t → t.csr k ≠ s.csr k →
    s.porHigh = true ∨
    ∃ r rest i, s.requests = r :: rest ∧ decode r = some i ∧ (i.isWriteType = true ∨ i.isReset = true) ∧
      t.response = some ⟨.ok, 0⟩

/-! ### Invariants and runs -/

/-- The vendor ID holds its construction-time value after reset (R26, R181). -/
def Obligations.VendorIdHoldsAtReset : Prop := State.reset.VendorIdKept

/-- Every step keeps the vendor ID at its construction-time value: no write, field write, reset or power-on moves it
(R22, R26, R108). -/
def Obligations.EveryStepKeepsTheVendorId : Prop :=
  ∀ s t : State, s.VendorIdKept → step s = .next t → t.VendorIdKept

/-- After any number of steps from a state that holds it, a READ of MVENDORID still answers the construction-time value,
and a WRITE to it still fails (R26, R48, vector S4). -/
def Obligations.VendorIdReadsTheSameAfterAnyRun : Prop :=
  ∀ (n : Nat) (s t : State), s.VendorIdKept → runSteps n s = .next t →
    exec (.read 0xF11) t = .next { t with response := some ⟨.ok, Config.mvendoridValue⟩ } ∧
    ∀ v, exec (.write 0xF11 v) t = .next { t with response := some ⟨.readOnlyRegister, 0⟩ }

/-- Well-formed requests presented in a row, with no power-on coming, are served one a step, in order, none dropped or
repeated (R48, R61): the run ends with none left and with the registers and the response of their meanings in order. The
list of waiting requests that `t.requests = []` speaks of is the model's own field, notes/assumptions/5.md. -/
def Obligations.RequestsAreServedInOrder : Prop :=
  ∀ (l : List Instr) (s : State),
    (∀ i ∈ l, i.WellFormed) → s.PorLow → s.requests = l.map encode →
      ∃ t u, runSteps l.length s = .next t ∧ execInOrder l s = .next u ∧
        t.requests = [] ∧ State.SameRegisters u t ∧ (l ≠ [] → t.response = u.response)

/-- Whatever admissible requests wait and whenever power-on comes, no run of any length is refused or stops. R61 and R184
give that every admissible request served completes. That a step with nothing presented answers a next state is the model's
choice, notes/assumptions/7.md, and so is that power-on may come at any point of a run and takes one step,
notes/assumptions/8.md. -/
def Obligations.AdmissibleRunsNeverStop : Prop :=
  ∀ (n : Nat) (s : State), s.Admissible → ∃ t, runSteps n s = .next t ∧ t.Admissible

/-- A READ answers the value of the last earlier WRITE to its register, whatever requests to other registers stand between
them (R48, R185). The list of waiting requests is the model's own field, notes/assumptions/5.md. -/
def Obligations.ReadSeesTheLastWrite : Prop :=
  ∀ (a : Nat) (k : Kind) (v : Word) (mid : List Instr) (s : State),
    decodeAddr a = some k → readOnly k = false →
    (∀ i ∈ mid, i.WellFormed ∧ i.mayChange k = false) → s.PorLow →
    s.requests = encode (.write a v) :: (mid.map encode ++ [encode (.read a)]) →
      ∃ t, runSteps (mid.length + 2) s = .next t ∧ t.response = some ⟨.ok, v⟩

/-! ### Named-field pseudo-ops -/

/-- R150, R151: the command word of each expansion, as the tables give it. The field positions are the spec's general
knowledge (PRESUMED, notes/assumptions/14.md). -/
def Obligations.PseudoOpCommandWords : Prop :=
  (∀ x bit,
    (encode (expand .fcsrReadFflags)).cmd = 0x058010037 ∧ encode (expand (.fcsrWriteFflags x)) = ⟨0x058010038, x⟩ ∧
    (encode (expand .fcsrReadFrm)).cmd = 0x088150037 ∧ encode (expand (.fcsrWriteFrm x)) = ⟨0x088150038, x⟩ ∧
    (encode (expand (.fcsrReadFlag .nx))).cmd = 0x000000035 ∧
    (encode (expand (.fcsrReadFlag .uf))).cmd = 0x000040035 ∧
    (encode (expand (.fcsrReadFlag .of))).cmd = 0x000080035 ∧
    (encode (expand (.fcsrReadFlag .dz))).cmd = 0x0000C0035 ∧
    (encode (expand (.fcsrReadFlag .nv))).cmd = 0x000100035 ∧
    (encode (expand (.fcsrWriteFlag .nx bit))).cmd = 0x000000036 ∧
    (encode (expand (.fcsrWriteFlag .uf bit))).cmd = 0x000040036 ∧
    (encode (expand (.fcsrWriteFlag .of bit))).cmd = 0x000080036 ∧
    (encode (expand (.fcsrWriteFlag .dz bit))).cmd = 0x0000C0036 ∧
    (encode (expand (.fcsrWriteFlag .nv bit))).cmd = 0x000100036 ∧
    (∀ flag, (encode (expand (.fcsrWriteFlag flag bit))).wdata = if bit then 1 else 0) ∧
    (encode (expand .misaReadExt)).cmd = 0x1A8013017 ∧ encode (expand (.misaWriteExt x)) = ⟨0x1A8013018, x⟩ ∧
    (encode (expand .misaReadMxl)).cmd = 0x000F93017 ∧ encode (expand (.misaWriteMxl x)) = ⟨0x000F93018, x⟩ ∧
    (encode (expand (.misaReadExtBit 8))).cmd = 0x000203015 ∧
    (encode (expand (.misaWriteExtBit 8 bit))).cmd = 0x000203016 ∧
    ∀ letter : Fin 26, expand (.misaReadExtBit letter) = .readBit 0x301 letter ∧
      expand (.misaWriteExtBit letter bit) = .writeBit 0x301 letter bit)

/-- R150, R151: every pseudo-op succeeds from every state (so none raises InvalidBitRange); reading frm answers
`CSR[FCSR][7:5]`, and writing frm replaces those three bits and no other. The positions are PRESUMED
(notes/assumptions/14.md). -/
def Obligations.PseudoOpsSucceedAndFrmIsItsField : Prop :=
  (∀ (p : PseudoOp) (s : State), ∃ t v, exec (expand p) s = .next t ∧ t.response = some ⟨.ok, v⟩) ∧
  (∀ s : State, ∃ t v, exec (expand .fcsrReadFrm) s = .next t ∧ t.response = some ⟨.ok, v⟩ ∧
    v = BitVec.setWidth W (s.fcsr.extractLsb' 5 3)) ∧
  (∀ (x : Word) (s : State), ∃ t, exec (expand (.fcsrWriteFrm x)) s = .next t ∧
    t.fcsr.extractLsb' 5 3 = x.extractLsb' 0 3 ∧ t.fcsr.extractLsb' 0 5 = s.fcsr.extractLsb' 0 5 ∧
    t.fcsr.extractLsb' 8 56 = s.fcsr.extractLsb' 8 56 ∧ t.misa = s.misa ∧ t.mvendorid = s.mvendorid)
end

