-- ==== Sys2Proof/Laws/BitRange.lean ====
section
/-! SUPPORT. The bits of the mask every masked read and write is built from. -/

namespace Sys2Proof.Machine

/-- `lowmask(n)` has bits `[0, n)` set and the rest clear (R11). -/
theorem getLsbD_lowmask {w : Nat} (n i : Nat) :
    (lowmask n : BitVec w).getLsbD i = (decide (i < w) && decide (i < n)) := by
  simp only [lowmask, BitVec.getLsbD_not, BitVec.getLsbD_shiftLeft, BitVec.getLsbD_allOnes]
  by_cases hi : i < w <;> by_cases hn : i < n <;> simp [hi, hn]; omega

/-- `lowmask(W) = ONES` (R11). -/
theorem lowmask_width (w : Nat) : (lowmask w : BitVec w) = BitVec.allOnes w := by
  apply BitVec.eq_of_getLsbD_eq
  intro i hi
  simp [getLsbD_lowmask, hi]

/-- `lowmask(0) = 0` (R11). -/
theorem lowmask_zero (w : Nat) : (lowmask 0 : BitVec w) = 0 := by
  apply BitVec.eq_of_getLsbD_eq
  intro i hi
  simp [getLsbD_lowmask]

/-- The bits of `fieldmask(s, e)` (R88). -/
theorem getLsbD_fieldMask {w : Nat} (s e i : Nat) :
    (fieldMask s e : BitVec w).getLsbD i = (decide (i < w) && decide (s ≤ i) && decide (i < e)) := by
  simp only [fieldMask, BitVec.getLsbD_and, BitVec.getLsbD_not, getLsbD_lowmask]
  by_cases hi : i < w <;> by_cases hs : i < s <;> by_cases he : i < e <;> simp [hi, hs, he]; omega

end Sys2Proof.Machine
end

