-- ==== Sys2Proof/Laws/Decode.lean ====
section
/-! SUPPORT. The fields of a command word the encoder writes. -/

namespace Sys2Proof

/-- The word's number, when every field fits (R62): each field is a multiple of its place, so `or` adds. -/
theorem cmdWord_toNat {op addr sk sb ek eb : Nat} (h1 : op < 16) (h2 : addr < 4096) (h3 : sk < 4) (h4 : sb < 256)
    (h5 : ek < 4) (h6 : eb < 256) :
    (cmdWord op addr sk sb ek eb).toNat =
      op + addr * 2 ^ 4 + sk * 2 ^ 16 + sb * 2 ^ 18 + ek * 2 ^ 26 + eb * 2 ^ 28 := by
  have e1 : op ||| addr <<< 4 = op + addr * 2 ^ 4 := by
    rw [Nat.or_comm, ← Nat.shiftLeft_add_eq_or_of_lt (by omega), Nat.shiftLeft_eq]; omega
  have e2 : (op + addr * 2 ^ 4) ||| sk <<< 16 = op + addr * 2 ^ 4 + sk * 2 ^ 16 := by
    rw [Nat.or_comm, ← Nat.shiftLeft_add_eq_or_of_lt (by omega), Nat.shiftLeft_eq]; omega
  have e3 : (op + addr * 2 ^ 4 + sk * 2 ^ 16) ||| sb <<< 18 = op + addr * 2 ^ 4 + sk * 2 ^ 16 + sb * 2 ^ 18 := by
    rw [Nat.or_comm, ← Nat.shiftLeft_add_eq_or_of_lt (by omega), Nat.shiftLeft_eq]; omega
  have e4 : (op + addr * 2 ^ 4 + sk * 2 ^ 16 + sb * 2 ^ 18) ||| ek <<< 26 =
      op + addr * 2 ^ 4 + sk * 2 ^ 16 + sb * 2 ^ 18 + ek * 2 ^ 26 := by
    rw [Nat.or_comm, ← Nat.shiftLeft_add_eq_or_of_lt (by omega), Nat.shiftLeft_eq]; omega
  have e5 : (op + addr * 2 ^ 4 + sk * 2 ^ 16 + sb * 2 ^ 18 + ek * 2 ^ 26) ||| eb <<< 28 =
      op + addr * 2 ^ 4 + sk * 2 ^ 16 + sb * 2 ^ 18 + ek * 2 ^ 26 + eb * 2 ^ 28 := by
    rw [Nat.or_comm, ← Nat.shiftLeft_add_eq_or_of_lt (by omega), Nat.shiftLeft_eq]; omega
  rw [cmdWord, e1, e2, e3, e4, e5, BitVec.toNat_ofNat, Nat.mod_eq_of_lt (by omega)]

/-- A field of a command word as a quotient and remainder of its number. -/
theorem field_toNat (cmd : BitVec 36) (lo len : Nat) :
    (cmd.extractLsb' lo len).toNat = cmd.toNat / 2 ^ lo % 2 ^ len := by
  rw [BitVec.extractLsb'_toNat, Nat.shiftRight_eq_div_pow]

/-- An op code fits its field (R63). -/
theorem opcode_lt (i : Instr) : i.opcode < 16 := by cases i <;> simp [Instr.opcode]

/-- A kind code fits its field. -/
theorem kindCode_lt (b : Bound) : b.kindCode < 4 := by cases b <;> simp [Bound.kindCode]

/-- A well-formed bound's value fits its field. -/
theorem value_lt {b : Bound} (h : b.wf = true) : b.value < 256 := by
  cases b <;> simp_all [Bound.wf, Bound.value] <;> exact h

/-- A bound is read back from its kind code and value (R64). -/
theorem decodeBound_encoded (b : Bound) : decodeBound b.kindCode b.value = some b := by cases b <;> rfl

end Sys2Proof
end

