-- ==== Sys2Proof/Laws/State.lean ====
section
/-! SUPPORT. One lemma per field and update of the state. -/

namespace Sys2Proof.Machine

/-! ### Registers -/

@[simp] theorem csr_fcsr (s : State) : s.csr .fcsr = s.fcsr := rfl
@[simp] theorem csr_mvendorid (s : State) : s.csr .mvendorid = s.mvendorid := rfl
@[simp] theorem csr_misa (s : State) : s.csr .misa = s.misa := rfl

@[simp] theorem csr_setCsr_same (s : State) (k : Kind) (v : Word) : (s.setCsr k v).csr k = v := by
  cases k <;> rfl

@[simp] theorem csr_setCsr_other (s : State) {k j : Kind} (v : Word) (h : j ≠ k) :
    (s.setCsr k v).csr j = s.csr j := by
  cases k <;> cases j <;> first | rfl | exact absurd rfl h

@[simp] theorem requests_setCsr (s : State) (k : Kind) (v : Word) : (s.setCsr k v).requests = s.requests := by
  cases k <;> rfl

@[simp] theorem por_setCsr (s : State) (k : Kind) (v : Word) : (s.setCsr k v).por = s.por := by
  cases k <;> rfl

@[simp] theorem response_setCsr (s : State) (k : Kind) (v : Word) : (s.setCsr k v).response = s.response := by
  cases k <;> rfl

@[simp] theorem setCsr_csr_self (s : State) (k : Kind) : s.setCsr k (s.csr k) = s := by
  cases k <;> rfl

@[simp] theorem setCsr_setCsr (s : State) (k : Kind) (v w : Word) : (s.setCsr k v).setCsr k w = s.setCsr k w := by
  cases k <;> rfl

/-- Two states with the same registers and ports are the same state. -/
theorem state_ext {s t : State} (hc : ∀ k, s.csr k = t.csr k) (hr : s.requests = t.requests) (hp : s.por = t.por)
    (ha : s.response = t.response) : s = t := by
  cases s; cases t
  have h1 := hc .fcsr
  have h2 := hc .mvendorid
  have h3 := hc .misa
  simp_all

/-! ### The response port -/

@[simp] theorem csr_withResponse (s : State) (st : Status) (v : Word) (k : Kind) :
    (s.withResponse st v).csr k = s.csr k := by
  cases k <;> rfl

@[simp] theorem response_withResponse (s : State) (st : Status) (v : Word) :
    (s.withResponse st v).response = some ⟨st, v⟩ := rfl

@[simp] theorem requests_withResponse (s : State) (st : Status) (v : Word) :
    (s.withResponse st v).requests = s.requests := rfl

@[simp] theorem por_withResponse (s : State) (st : Status) (v : Word) : (s.withResponse st v).por = s.por := rfl

@[simp] theorem withResponse_withResponse (s : State) (st st' : Status) (v v' : Word) :
    (s.withResponse st v).withResponse st' v' = s.withResponse st' v' := rfl

theorem setCsr_withResponse (s : State) (st : Status) (v w : Word) (k : Kind) :
    (s.withResponse st v).setCsr k w = (s.setCsr k w).withResponse st v := by
  cases k <;> rfl

/-! ### The input ports -/

@[simp] theorem csr_sampled (s : State) (k : Kind) : s.sampled.csr k = s.csr k := by cases k <;> rfl
@[simp] theorem requests_sampled (s : State) : s.sampled.requests = s.requests := rfl
@[simp] theorem por_sampled (s : State) : s.sampled.por = s.por.tail := rfl
@[simp] theorem response_sampled (s : State) : s.sampled.response = none := rfl

@[simp] theorem csr_withRequests (s : State) (rest : List Request) (k : Kind) :
    (s.withRequests rest).csr k = s.csr k := by
  cases k <;> rfl

@[simp] theorem requests_withRequests (s : State) (rest : List Request) : (s.withRequests rest).requests = rest := rfl
@[simp] theorem por_withRequests (s : State) (rest : List Request) : (s.withRequests rest).por = s.por := rfl

@[simp] theorem response_withRequests (s : State) (rest : List Request) :
    (s.withRequests rest).response = s.response := rfl

end Sys2Proof.Machine
end

