-- ==== Sys2Proof/Laws/Ops.lean ====
section
/-! SUPPORT. For each shared operation, once, everything it can do. -/

namespace Sys2Proof.Machine

/-! ### Addresses -/

/-- The mapped addresses, as a case split. -/
theorem decodeAddr_cases (a : Nat) :
    (a = 0x003 ∧ decodeAddr a = some .fcsr) ∨ (a = 0x301 ∧ decodeAddr a = some .misa) ∨
    (a = 0xF11 ∧ decodeAddr a = some .mvendorid) ∨
    (a ≠ 0x003 ∧ a ≠ 0x301 ∧ a ≠ 0xF11 ∧ decodeAddr a = none) := by
  by_cases h1 : a = 0x003
  · exact .inl ⟨h1, by subst h1; rfl⟩
  by_cases h2 : a = 0x301
  · exact .inr (.inl ⟨h2, by subst h2; rfl⟩)
  by_cases h3 : a = 0xF11
  · exact .inr (.inr (.inl ⟨h3, by subst h3; rfl⟩))
  · refine .inr (.inr (.inr ⟨h1, h2, h3, ?_⟩))
    have e1 : (a == 3) = false := by simpa using h1
    have e2 : (a == 769) = false := by simpa using h2
    have e3 : (a == 3857) = false := by simpa using h3
    simp [decodeAddr, decodeAddrIn, cfgBase, addrFCSR, addrMISA, addrMVENDORID, List.lookup, e1, e2, e3]

/-- A mapped address fits its field. -/
theorem addrWf_of_mapped {a : Nat} {k : Kind} (h : decodeAddr a = some k) : addrWf a = true := by
  rcases decodeAddr_cases a with ⟨rfl, _⟩ | ⟨rfl, _⟩ | ⟨rfl, _⟩ | ⟨_, _, _, hn⟩
  · rfl
  · rfl
  · rfl
  · simp [hn] at h

/-! ### The checks -/

theorem withKind_none {s : State} {a : Nat} {body : Kind → Result} (h : decodeAddr a = none) :
    s.withKind a body = s.raise .unmappedRegister := by
  simp [State.withKind, h]

theorem withKind_some {s : State} {a : Nat} {k : Kind} {body : Kind → Result} (h : decodeAddr a = some k) :
    s.withKind a body = body k := by
  simp [State.withKind, h]

/-- Resolving an address raises UnmappedRegister or goes on with the kind (R120). -/
theorem withKind_cases (s : State) (a : Nat) (body : Kind → Result) :
    (decodeAddr a = none ∧ s.withKind a body = s.raise .unmappedRegister) ∨
    ∃ k, decodeAddr a = some k ∧ s.withKind a body = body k := by
  cases h : decodeAddr a with
  | none => exact .inl ⟨rfl, withKind_none h⟩
  | some k => exact .inr ⟨k, rfl, withKind_some h⟩

/-- The read-only check raises ReadOnlyRegister or goes on (R122). -/
theorem ifWritable_cases (s : State) (k : Kind) (body : Result) :
    (readOnly k = true ∧ s.ifWritable k body = s.raise .readOnlyRegister) ∨
    (readOnly k = false ∧ s.ifWritable k body = body) := by
  cases h : readOnly k <;> simp [State.ifWritable, h]

/-- The index check raises InvalidBitRange or goes on (R89). -/
theorem ifIndex_cases (s : State) (n : Nat) (body : Result) :
    (W ≤ n ∧ s.ifIndex n body = s.raise .invalidBitRange) ∨ (n < W ∧ s.ifIndex n body = body) := by
  by_cases h : n < W
  · exact .inr ⟨h, if_pos h⟩
  · exact .inl ⟨Nat.le_of_not_lt h, if_neg h⟩

/-- The range check raises InvalidBitRange or goes on with the canonical interval (R84). -/
theorem withInterval_cases (s : State) (sb eb : Bound) (body : Nat → Nat → Result) :
    (¬ ValidInterval W (canonStart sb) (canonEnd W eb) ∧ s.withInterval sb eb body = s.raise .invalidBitRange) ∨
    (ValidInterval W (canonStart sb) (canonEnd W eb) ∧
      s.withInterval sb eb body = body (canonStart sb) (canonEnd W eb)) := by
  by_cases h : ValidInterval W (canonStart sb) (canonEnd W eb)
  · exact .inr ⟨h, if_pos h⟩
  · exact .inl ⟨h, if_neg h⟩

/-! ### Writing -/

/-- On a kind that is not read-only every bit is writable, so `write_value` stores the value (R106, R109). -/
theorem writeValue_of_writable (s : State) {k : Kind} (v : Word) (h : readOnly k = false) :
    s.writeValue k v = s.setCsr k v := by
  cases k <;> simp_all [State.writeValue, readOnly, wmask]

/-- On a read-only kind `write_value` would change nothing (R108). -/
theorem writeValue_of_readOnly (s : State) {k : Kind} (v : Word) (h : readOnly k = true) :
    s.writeValue k v = s := by
  cases k <;> simp_all [State.writeValue, readOnly, wmask, State.setCsr]

/-! ### The whole file -/

/-- RESET_ALL's reset of every mapped register, register by register (R124). -/
theorem csr_resetMapped (s : State) (k : Kind) : (State.resetMapped cfgBase s).csr k = powerOnValue k := by
  cases k <;> rfl

/-- Construction gives the same registers as reset (R104). -/
theorem powerOn_eq_resetMapped (s : State) : s.powerOn = State.resetMapped cfgBase s := rfl

@[simp] theorem requests_powerOn (s : State) : s.powerOn.requests = s.requests := rfl
@[simp] theorem por_powerOn (s : State) : s.powerOn.por = s.por := rfl
@[simp] theorem response_powerOn (s : State) : s.powerOn.response = s.response := rfl

end Sys2Proof.Machine
end

