-- ==== Sys2Proof/Laws/PerInstr.lean ====
section
/-! SUPPORT. Statements for all instructions, one lemma per constructor. OpcodeField: the op field of a well-formed
instruction's command word is its row's code (R62, R63). -/

namespace Sys2Proof.Laws

/-- The op field of the encoding of a well-formed instruction. -/
def OpcodeField.Statement (i : Instr) : Prop := i.WellFormed → (encode i).op = i.opcode

/-- The op field of a command word whose fields fit. -/
theorem op_of_cmdWord {op addr sk sb ek eb : Nat} (wdata : Word) (h1 : op < 16) (h2 : addr < 4096) (h3 : sk < 4)
    (h4 : sb < 256) (h5 : ek < 4) (h6 : eb < 256) :
    Request.op ⟨cmdWord op addr sk sb ek eb, wdata⟩ = op := by
  rw [Request.op, field_toNat, cmdWord_toNat h1 h2 h3 h4 h5 h6]
  omega

theorem OpcodeField.read (a : Nat) : OpcodeField.Statement (.read a) := fun h =>
  op_of_cmdWord _ (opcode_lt _) (of_decide_eq_true h) (by decide) (by decide) (by decide) (by decide)

theorem OpcodeField.write (a : Nat) (v : Word) : OpcodeField.Statement (.write a v) := fun h =>
  op_of_cmdWord _ (opcode_lt _) (of_decide_eq_true h) (by decide) (by decide) (by decide) (by decide)

theorem OpcodeField.lookup (a : Nat) : OpcodeField.Statement (.lookup a) := fun h =>
  op_of_cmdWord _ (opcode_lt _) (of_decide_eq_true h) (by decide) (by decide) (by decide) (by decide)

theorem OpcodeField.resetAll : OpcodeField.Statement .resetAll := fun _ => by decide

theorem OpcodeField.resetReg (a : Nat) : OpcodeField.Statement (.resetReg a) := fun h =>
  op_of_cmdWord _ (opcode_lt _) (of_decide_eq_true h) (by decide) (by decide) (by decide) (by decide)

theorem OpcodeField.readBit (a n : Nat) : OpcodeField.Statement (.readBit a n) := fun h => by
  obtain ⟨ha, hn⟩ : addrWf a = true ∧ indexWf n = true := by simpa [Instr.WellFormed, Instr.wf] using h
  exact op_of_cmdWord _ (opcode_lt _) (of_decide_eq_true ha) (by decide) (of_decide_eq_true hn) (by decide) (by decide)

theorem OpcodeField.writeBit (a n : Nat) (bit : Bool) : OpcodeField.Statement (.writeBit a n bit) := fun h => by
  obtain ⟨ha, hn⟩ : addrWf a = true ∧ indexWf n = true := by simpa [Instr.WellFormed, Instr.wf] using h
  exact op_of_cmdWord _ (opcode_lt _) (of_decide_eq_true ha) (by decide) (of_decide_eq_true hn) (by decide) (by decide)

theorem OpcodeField.readBits (a : Nat) (sb eb : Bound) : OpcodeField.Statement (.readBits a sb eb) := fun h => by
  obtain ⟨⟨ha, hs⟩, he⟩ : (addrWf a = true ∧ sb.wf = true) ∧ eb.wf = true := by simpa [Instr.WellFormed, Instr.wf] using h
  exact op_of_cmdWord _ (opcode_lt _) (of_decide_eq_true ha) (kindCode_lt sb) (value_lt hs) (kindCode_lt eb) (value_lt he)

theorem OpcodeField.writeBits (a : Nat) (sb eb : Bound) (x : Word) :
    OpcodeField.Statement (.writeBits a sb eb x) := fun h => by
  obtain ⟨⟨ha, hs⟩, he⟩ : (addrWf a = true ∧ sb.wf = true) ∧ eb.wf = true := by simpa [Instr.WellFormed, Instr.wf] using h
  exact op_of_cmdWord _ (opcode_lt _) (of_decide_eq_true ha) (kindCode_lt sb) (value_lt hs) (kindCode_lt eb) (value_lt he)

end Sys2Proof.Laws
end

