-- ==== Sys2Proof/Laws/Step.lean ====
section
/-! SUPPORT. Everything a step can do, said once. -/

namespace Sys2Proof.Machine

/-- A step that answers a next state was a power-on, an idle step or a served request. -/
theorem step_next_cases {s t : State} (h : step s = .next t) :
    (s.porHigh = true ∧ t = s.sampled.powerOn) ∨
    (s.porHigh = false ∧ s.requests = [] ∧ t = s.sampled) ∨
    (s.porHigh = false ∧ ∃ r rest i, s.requests = r :: rest ∧ decode r = some i ∧
      exec i (s.sampled.withRequests rest) = .next t) := by
  cases hp : s.porHigh with
  | true =>
    simp only [step, hp, if_true, Host.Outcome.next.injEq] at h
    exact .inl ⟨rfl, h.symm⟩
  | false =>
    refine .inr ?_
    simp only [step, hp, Bool.false_eq_true, if_false] at h
    cases hr : s.requests with
    | nil =>
      rw [hr] at h
      exact .inl ⟨rfl, rfl, (Host.Outcome.next.inj h).symm⟩
    | cons r rest =>
      rw [hr] at h
      simp only [serve] at h
      cases hd : decode r with
      | none => simp [hd] at h
      | some i => exact .inr ⟨rfl, r, rest, i, rfl, hd, by simpa [hd] using h⟩

/-- The next sample of `por` is low when every coming one is. -/
theorem porHigh_of_all_low {s : State} (h : ∀ level ∈ s.por, level = false) : s.porHigh = false := by
  cases hp : s.por with
  | nil => simp [State.porHigh, hp]
  | cons b rest => simp [State.porHigh, hp, h b (by simp [hp])]

end Sys2Proof.Machine
end

