-- ==== Sys2Proof/Laws/Run.lean ====
section
/-! SUPPORT. A run, one step at a time. -/

namespace Sys2Proof.Machine

@[simp] theorem runSteps_zero (s : State) : runSteps 0 s = .next s := rfl

/-- A run goes on from the next state. -/
theorem runSteps_succ_of_next {s t : State} (n : Nat) (h : step s = .next t) : runSteps (n + 1) s = runSteps n t := by
  have hc : Sys2Proof.core.step s = .next t := h
  simp only [runSteps, Host.Core.run, hc]
  rfl

/-- A run ends at a refused step. -/
theorem runSteps_succ_of_refused {s : State} {why : Refusal} (n : Nat) (h : step s = .refused why) :
    runSteps (n + 1) s = .refused why := by
  have hc : Sys2Proof.core.step s = .refused why := h
  simp only [runSteps, Host.Core.run, hc]
  rfl

/-- A run that answers a next state after `n + 1` steps made a first step. -/
theorem runSteps_succ_next {s t : State} {n : Nat} (h : runSteps (n + 1) s = .next t) :
    ∃ u, step s = .next u ∧ runSteps n u = .next t := by
  cases hs : step s with
  | next u => exact ⟨u, rfl, by rw [← runSteps_succ_of_next n hs]; exact h⟩
  | fault why => nomatch why
  | refused why => rw [runSteps_succ_of_refused n hs] at h; cases h

end Sys2Proof.Machine
end

