-- ==== Sys2Proof/Machine/Text.lean ====
section
/-! DEFINITION. A printer for requests in the textual syntax of spec/30_encoding.md R73, with the range shorthands of that
rule as functions, and for the pseudo-ops by their names (spec/43_field_ops.md R150, R151). A mapped address prints as its
constant (R72), any other number in hexadecimal or, for bit indexes and bound values, in decimal
(notes/assumptions/18.md). -/

namespace Sys2Proof.Machine

/-- A number in hexadecimal. -/
def hexText (n : Nat) : String := "0x" ++ String.ofList (Nat.toDigits 16 n)

/-- A number in decimal. -/
def decText (n : Nat) : String := String.ofList (Nat.toDigits 10 n)

/-- A bit as text. -/
def bitText (bit : Bool) : String := if bit then "1" else "0"

/-- `<addr>` (R72, R73). -/
def addrText (a : Nat) : String :=
  match decodeAddr a with
  | some .fcsr => "FCSR"
  | some .misa => "MISA"
  | some .mvendorid => "MVENDORID"
  | none => hexText a

/-- `<bound>` (R73). -/
def boundText : Bound → String
  | .unbounded => "U"
  | .included b => "I" ++ decText b
  | .excluded b => "E" ++ decText b

/-- `<range>` (R73). -/
def rangeText (sb eb : Bound) : String := "(" ++ boundText sb ++ ", " ++ boundText eb ++ ")"

/-- A request as text (R73). -/
def instrText : Instr → String
  | .read a => "csr.read " ++ addrText a
  | .write a v => "csr.write " ++ addrText a ++ ", " ++ hexText v.toNat
  | .lookup a => "csr.lookup " ++ addrText a
  | .resetAll => "csr.reset_all"
  | .resetReg a => "csr.reset " ++ addrText a
  | .readBit a n => "csr.read_bit " ++ addrText a ++ ", " ++ decText n
  | .writeBit a n bit => "csr.write_bit " ++ addrText a ++ ", " ++ decText n ++ ", " ++ bitText bit
  | .readBits a sb eb => "csr.read_bits " ++ addrText a ++ ", " ++ rangeText sb eb
  | .writeBits a sb eb x => "csr.write_bits " ++ addrText a ++ ", " ++ rangeText sb eb ++ ", " ++ hexText x.toNat

/-! ### Pseudo-ops by name (R150, R151) -/

/-- A flag's name (R150). -/
def flagText : FcsrFlag → String
  | .nx => "nx"
  | .uf => "uf"
  | .of => "of"
  | .dz => "dz"
  | .nv => "nv"

/-- An extension letter, A to Z (R151). -/
def letterText (letter : Fin 26) : String := String.ofList [Char.ofNat (65 + letter)]

/-- A pseudo-op as text (R150, R151). -/
def pseudoText : PseudoOp → String
  | .fcsrReadFflags => "fcsr.read_fflags"
  | .fcsrWriteFflags x => "fcsr.write_fflags " ++ hexText x.toNat
  | .fcsrReadFrm => "fcsr.read_frm"
  | .fcsrWriteFrm x => "fcsr.write_frm " ++ hexText x.toNat
  | .fcsrReadFlag flag => "fcsr.read_" ++ flagText flag
  | .fcsrWriteFlag flag bit => "fcsr.write_" ++ flagText flag ++ " " ++ bitText bit
  | .misaReadExt => "misa.read_ext"
  | .misaWriteExt x => "misa.write_ext " ++ hexText x.toNat
  | .misaReadMxl => "misa.read_mxl"
  | .misaWriteMxl x => "misa.write_mxl " ++ hexText x.toNat
  | .misaReadExtBit letter => "misa.read_ext_bit " ++ letterText letter
  | .misaWriteExtBit letter bit => "misa.write_ext_bit " ++ letterText letter ++ ", " ++ bitText bit

/-! ### Range shorthands (R73) -/

/-- `s..e` -/
def rangeHalfOpen (start fin : Nat) : Bound × Bound := (.included start, .excluded fin)

/-- `s..=e` -/
def rangeClosed (start fin : Nat) : Bound × Bound := (.included start, .included fin)

/-- `..` -/
def rangeFull : Bound × Bound := (.unbounded, .unbounded)

/-- `..e` -/
def rangeTo (fin : Nat) : Bound × Bound := (.unbounded, .excluded fin)

/-- `s..` -/
def rangeFrom (start : Nat) : Bound × Bound := (.included start, .unbounded)

end Sys2Proof.Machine
end

