-- ==== Sys2Proof/Tests/Slice0.lean ====
section
/-! SUPPORT. The model's own tests, with expected results from spec/95_test_vectors.md (the vector's id in each docstring)
or worked out by hand from the rule named, and for every statement with hypotheses a witness that meets them. -/

namespace Sys2Proof.Tests

open Sys2Proof.Machine

/-! ### Helpers -/

/-- A state with nothing presented; the vendor ID is that of the vectors. -/
def regs (fcsr misa : Word) : State :=
  { fcsr := fcsr, misa := misa, mvendorid := 0xA5A, requests := [], por := [], response := none }

/-- One request served by one step. -/
def served (cmd : BitVec 36) (wdata : Word) (s : State) : Option State :=
  match step { s with requests := [⟨cmd, wdata⟩] } with
  | .next t => some t
  | .fault _ => none
  | .refused _ => none

/-- Whether a step is refused for a reserved encoding. -/
def refuses (cmd : BitVec 36) : Bool :=
  match step { regs 0 0 with requests := [⟨cmd, 0⟩] } with
  | .next _ => false
  | .fault _ => false
  | .refused (.reservedEncoding c) => c == cmd
  | .refused (.notModelled _) => false

/-- The response a request gets. -/
def answer (cmd : BitVec 36) (wdata : Word) (s : State) : Option Response := (served cmd wdata s).bind (·.response)

/-- FCSR after a request. -/
def fcsrAfter (cmd : BitVec 36) (wdata : Word) (s : State) : Option Word := (served cmd wdata s).map (·.fcsr)

/-- MISA after a request. -/
def misaAfter (cmd : BitVec 36) (wdata : Word) (s : State) : Option Word := (served cmd wdata s).map (·.misa)

/-! ### WellFormed refuses what does not fit its field (R62, R65) -/

theorem smoke_read_wide_address : (Instr.read 4096).wf = false := by decide
theorem smoke_write_wide_address : (Instr.write 4096 0).wf = false := by decide
theorem smoke_lookup_wide_address : (Instr.lookup 4096).wf = false := by decide
theorem smoke_resetReg_wide_address : (Instr.resetReg 4096).wf = false := by decide
theorem smoke_readBit_wide_address : (Instr.readBit 4096 0).wf = false := by decide
theorem smoke_readBit_wide_index : (Instr.readBit 3 256).wf = false := by decide
theorem smoke_writeBit_wide_address : (Instr.writeBit 4096 0 true).wf = false := by decide
theorem smoke_writeBit_wide_index : (Instr.writeBit 3 256 true).wf = false := by decide
theorem smoke_readBits_wide_address : (Instr.readBits 4096 .unbounded .unbounded).wf = false := by decide
theorem smoke_readBits_wide_start : (Instr.readBits 3 (.included 256) .unbounded).wf = false := by decide
theorem smoke_readBits_wide_end : (Instr.readBits 3 .unbounded (.excluded 256)).wf = false := by decide
theorem smoke_writeBits_wide_address : (Instr.writeBits 4096 .unbounded .unbounded 0).wf = false := by decide
theorem smoke_writeBits_wide_start : (Instr.writeBits 3 (.excluded 256) .unbounded 0).wf = false := by decide
theorem smoke_writeBits_wide_end : (Instr.writeBits 3 .unbounded (.included 256) 0).wf = false := by decide
theorem smoke_widest_fields_fit : (Instr.writeBits 4095 (.included 255) (.excluded 255) 0).wf = true := by decide

/-! ### Decoding: every constructor, by a word written out from R62 to R64 -/

/-- W1. -/
theorem test_decode_read : decode ⟨0x000000030, 0⟩ = some (.read 0x003) := by decide
/-- W6. -/
theorem test_decode_write : decode ⟨0x00000F111, 0x1234⟩ = some (.write 0xF11 0x1234) := by decide
/-- W11. -/
theorem test_decode_lookup : decode ⟨0x000003012, 0⟩ = some (.lookup 0x301) := by decide
/-- W13. -/
theorem test_decode_resetAll : decode ⟨0x000000003, 0⟩ = some .resetAll := by decide
/-- W15. -/
theorem test_decode_resetReg : decode ⟨0x000003014, 0⟩ = some (.resetReg 0x301) := by decide
/-- D9. -/
theorem test_decode_readBit : decode ⟨0x003FC9995, 0⟩ = some (.readBit 0x999 255) := by decide
/-- D3: only bit 0 of the write data. -/
theorem test_decode_writeBit : decode ⟨0x000FC0036, 2⟩ = some (.writeBit 0x003 63 false) := by decide
/-- E4. -/
theorem test_decode_readBits : decode ⟨0x074120037, 0⟩ = some (.readBits 0x003 (.excluded 4) (.included 7)) := by decide
/-- E10. -/
theorem test_decode_writeBits :
    decode ⟨0x3F4FD3018, 0⟩ = some (.writeBits 0x301 (.included 63) (.included 63) 0) := by decide
/-- F2, the other way. -/
theorem test_encode_writeBits :
    encode (.writeBits 0xF11 (.included 70) (.included 80) 1) = ⟨0x50519F118, 1⟩ := by decide
/-- D2, the other way. -/
theorem test_encode_writeBit : encode (.writeBit 0x003 63 true) = ⟨0x000FC0036, 1⟩ := by decide
/-- D12, G5: SK = 3 is ignored by READ_BIT. -/
theorem test_decode_ignores_start_kind : decode ⟨0x000030035, 0⟩ = some (.readBit 0x003 0) := by decide
/-- G1, G2. -/
theorem test_reserved_op : refuses 0x000000039 = true ∧ refuses 0x00000003F = true := by decide
/-- G3, G4. -/
theorem test_reserved_bound_kind : refuses 0x000030037 = true ∧ refuses 0x00C000038 = true := by decide
/-- The data word counts on from the command word's 36 bits. -/
theorem test_table_word : decodeTableWord 100 (5 * 2 ^ 36 + 0x31) = some (.write 0x003 5) := by decide

/-! ### The operations -/

/-- W18: READ ignores the bound fields. -/
theorem test_read : answer 0xFFFFF0030 0 (regs 7 0) = some ⟨.ok, 7⟩ := by decide
/-- W7: fflags is not mapped. -/
theorem test_read_unmapped : answer 0x000000010 0 (regs 0 0) = some ⟨.unmappedRegister, 0⟩ := by decide
/-- W4: bit 63 is stored. -/
theorem test_write : fcsrAfter 0x000000031 0x8000000000000000 (regs 0 0) = some 0x8000000000000000 := by decide
/-- W6: the vendor ID rejects the write and keeps its value. -/
theorem test_write_vendor_id :
    (served 0x00000F111 0x1234 (regs 0 0)).map (fun t => (t.mvendorid, t.response)) =
      some (0xA5A, some ⟨.readOnlyRegister, 0⟩) := by decide
/-- W10. -/
theorem test_lookup : answer 0x00000F112 0 (regs 0 0) = some ⟨.ok, 1⟩ := by decide
/-- W12. -/
theorem test_lookup_unmapped : answer 0x000000002 0 (regs 0 0) = some ⟨.unmappedRegister, 0⟩ := by decide
/-- W13. -/
theorem test_resetAll :
    (served 0x000000003 0 (regs 5 0)).map (fun t => (t.fcsr, t.misa)) = some (0, Config.misaReset) := rfl
/-- W15: FCSR stays. -/
theorem test_resetReg :
    (served 0x000003014 0 (regs 5 0)).map (fun t => (t.fcsr, t.misa)) = some (5, Config.misaReset) := rfl
/-- W16: a reset of the vendor ID is no write. -/
theorem test_resetReg_vendor_id : answer 0x00000F114 0 (regs 0 0) = some ⟨.ok, 0⟩ := by decide
/-- D1. -/
theorem test_readBit : answer 0x000FC3015 0 (regs 0 0xFFFFFFFFFFFFFFFF) = some ⟨.ok, 1⟩ := by decide
/-- D6. -/
theorem test_readBit_past_width : answer 0x001000035 0 (regs 0 0) = some ⟨.invalidBitRange, 0⟩ := by decide
/-- D3: write data 2 clears bit 63. -/
theorem test_writeBit : fcsrAfter 0x000FC0036 2 (regs 0x8000000000001FF4 0) = some 0x1FF4 := by decide
/-- D10: ReadOnly before Invalid. -/
theorem test_writeBit_vendor_id : answer 0x003FCF116 1 (regs 0 0) = some ⟨.readOnlyRegister, 0⟩ := by decide
/-- E9: zero-extended. -/
theorem test_readBits : answer 0x000F13017 0 (regs 0 0xFFFFFFFFFFFFFFFF) = some ⟨.ok, 0xF⟩ := by decide
/-- E12: the end is past the word. -/
theorem test_readBits_past_width : answer 0x404010037 0 (regs 0x1F 0) = some ⟨.invalidBitRange, 0⟩ := by decide
/-- E2, P2 step 1: the field value is truncated, so this is not 0x1E0. -/
theorem test_writeBits : fcsrAfter 0x088150038 0xFF (regs 0 0) = some 0xE0 := by decide
/-- E10. -/
theorem test_writeBits_top_bit :
    misaAfter 0x3F4FD3018 0 (regs 0 0xFFFFFFFFFFFFFFFF) = some 0x7FFFFFFFFFFFFFFF := by decide
/-- A14, E13: 255 + 1 does not wrap to 0. -/
theorem test_bound_does_not_wrap : answer 0x003FE0038 1 (regs 0x1F 0) = some ⟨.invalidBitRange, 0⟩ := by decide
/-- F1: Unmapped before Invalid. -/
theorem test_unmapped_before_invalid : answer 0x058219998 1 (regs 0 0) = some ⟨.unmappedRegister, 0⟩ := by decide

/-! ### The algebra -/

/-- B13: bit 16 stays. -/
theorem test_insert : insertField (0x0123456789ABCDEF : Word) 8 16 0x1FF = 0x0123456789ABFFEF := by decide
/-- B8. -/
theorem test_extract : extractField (0xF123456789ABCDEF : Word) 32 64 = 0x00000000F1234567 := by decide

/-! ### Text (R73) -/

/-- E1. -/
theorem test_text_writeBits :
    instrText (.writeBits addrFCSR (rangeHalfOpen 5 8).1 (rangeHalfOpen 5 8).2 3) =
      "csr.write_bits FCSR, (I5, E8), 0x3" := by decide
/-- F5. -/
theorem test_text_readBit : instrText (.readBit 0x999 255) = "csr.read_bit 0x999, 255" := by decide

/-- E20. -/
theorem test_text_pseudo : pseudoText (.misaReadExtBit 8) = "misa.read_ext_bit I" := by decide

/-- The spec's constraints on `W` (R7). -/
theorem test_width_constraints : 8 ≤ W ∧ W ≤ 2 ^ Config.boundBits - 1 := by decide

/-! ### Witnesses: each statement's hypotheses are met together -/

theorem witness_DecodeEncodeRoundTrip : (Instr.writeBits 4095 (.included 255) (.excluded 255) 1).WellFormed := by decide

theorem witness_DecodedInstructionsAreWellFormed :
    decode ⟨0x3FFFFFFF5, 0⟩ = some (.readBit 4095 255) := by decide

theorem witness_DecoderIsTotalAndReservesOnlyR71 :
    decode ⟨0x3F4FD3018, 0⟩ = some (.writeBits 0x301 (.included 63) (.included 63) 0) := by decide

/-- For each clause two different requests that meet its premises. -/
theorem witness_IgnoredFieldsChangeNothing :
    (Request.op ⟨0x3, 0⟩ = 3 ∧ Request.op ⟨0xFFFFFFFF3, 1⟩ = 3) ∧
    (Request.op ⟨0x34, 0⟩ = 4 ∧ Request.op ⟨0xFFFFF0034, 1⟩ = 4 ∧
      Request.addr ⟨0x34, 0⟩ = Request.addr ⟨0xFFFFF0034, 1⟩) ∧
    (Request.op ⟨0x31, 9⟩ = 1 ∧ Request.op ⟨0xFFFFF0031, 9⟩ = 1 ∧
      Request.addr ⟨0x31, 9⟩ = Request.addr ⟨0xFFFFF0031, 9⟩) ∧
    (Request.op ⟨0x40035, 0⟩ = 5 ∧ Request.op ⟨0xFFC070035, 1⟩ = 5 ∧
      Request.addr ⟨0x40035, 0⟩ = Request.addr ⟨0xFFC070035, 1⟩ ∧
      Request.startValue ⟨0x40035, 0⟩ = Request.startValue ⟨0xFFC070035, 1⟩) ∧
    (Request.op ⟨0x40036, 1⟩ = 6 ∧ Request.op ⟨0xFFC070036, 3⟩ = 6 ∧
      Request.addr ⟨0x40036, 1⟩ = Request.addr ⟨0xFFC070036, 3⟩ ∧
      Request.startValue ⟨0x40036, 1⟩ = Request.startValue ⟨0xFFC070036, 3⟩ ∧
      (1 : Word).getLsbD 0 = (3 : Word).getLsbD 0) ∧
    (Request.op ⟨0x38, 5⟩ = 8 ∧ Request.op ⟨0xFF3FC0038, 5⟩ = 8 ∧
      Request.addr ⟨0x38, 5⟩ = Request.addr ⟨0xFF3FC0038, 5⟩ ∧
      Request.startKind ⟨0x38, 5⟩ = 0 ∧ Request.startKind ⟨0xFF3FC0038, 5⟩ = 0 ∧
      Request.endKind ⟨0x38, 5⟩ = 0 ∧ Request.endKind ⟨0xFF3FC0038, 5⟩ = 0) := by decide

theorem witness_ExtractTakesTheField : ValidInterval 64 0 64 ∧ ValidInterval 64 63 64 := by decide

theorem witness_InsertReplacesTheField : ValidInterval 64 0 64 ∧ ValidInterval 8 7 8 := by decide

theorem witness_WriteValueAppliesTheMask : 63 < W ∧ Kind.misa ≠ Kind.fcsr := by decide

theorem witness_BitRangeAlgebraLaws :
    ValidInterval 64 0 1 ∧ 0 < 64 ∧ ((0 : Nat) ≠ 63 ∧ 0 < 64 ∧ 63 < 64) := by decide

theorem witness_ReadAnswersTheRegister :
    Request.op ⟨0xFFFFF0030, 1⟩ = 0x0 ∧ State.reset.VendorIdKept ∧
    decodeAddr 0x003 = some .fcsr ∧ decodeAddr 0xF11 = some .mvendorid ∧ decodeAddr 4096 = none :=
  ⟨by decide, rfl, by decide, by decide, by decide⟩

theorem witness_WriteStoresTheWholeValue : Request.op ⟨0xFFFFF0031, 1⟩ = 0x1 ∧ (0x999 : Nat) ≠ 0x003 ∧ 0x999 ≠ 0x301 ∧ 0x999 ≠ 0xF11 := by decide

theorem witness_LookupAnswersTheKindCode : Request.op ⟨0xFFFFF0032, 1⟩ = 0x2 ∧ (4095 : Nat) ≠ 0x003 ∧ 4095 ≠ 0x301 ∧ 4095 ≠ 0xF11 := by decide

theorem witness_ResetAllRestoresEveryRegister : Request.op ⟨0xFFFFFFFF3, 1⟩ = 0x3 := by decide

theorem witness_ResetRegRestoresOneRegister : Request.op ⟨0xFFFFF0034, 1⟩ = 0x4 ∧ (0x002 : Nat) ≠ 0x003 ∧ 0x002 ≠ 0x301 ∧ 0x002 ≠ 0xF11 := by decide

theorem witness_ReadBitAnswersTheBit :
    Request.op ⟨0xFFC033015, 1⟩ = 0x5 ∧
    (decodeAddr 0x301 = some .misa ∧ 63 < W) ∧ (decodeAddr 0x301 = some .misa ∧ W ≤ 64) ∧
    decodeAddr 0x999 = none := by decide

theorem witness_WriteBitChangesOneBit :
    Request.op ⟨0xFFC030036, 1⟩ = 0x6 ∧
    (decodeAddr 0x003 = some .fcsr ∧ readOnly .fcsr = false ∧ 63 < W) ∧
    (decodeAddr 0x003 = some .fcsr ∧ readOnly .fcsr = false ∧ W ≤ 64) ∧
    (decodeAddr 0xF11 = some .mvendorid ∧ readOnly .mvendorid = true) ∧ decodeAddr 0x999 = none := by decide

theorem witness_ReadBitsAnswersTheField :
    (Request.op ⟨0x3F5FD0037, 0⟩ = 0x7 ∧ Request.startBound ⟨0x3F5FD0037, 0⟩ = some (.included 127) ∧
      Request.endBound ⟨0x3F5FD0037, 0⟩ = some (.included 63)) ∧
    (Request.op ⟨0x30037, 0⟩ = 0x7 ∧ Request.startKind ⟨0x30037, 0⟩ = 3) ∧
    (decodeAddr 0xF11 = some .mvendorid ∧ ValidInterval W (canonStart (.included 0)) (canonEnd W (.included 63))) ∧
    (decodeAddr 0xF11 = some .mvendorid ∧ ¬ ValidInterval W (canonStart (.included 0)) (canonEnd W (.included 64))) ∧
    decodeAddr 0x999 = none := by decide

theorem witness_WriteBitsChangesTheField :
    (Request.op ⟨0x3F5FD0038, 0⟩ = 0x8 ∧ Request.startBound ⟨0x3F5FD0038, 0⟩ = some (.included 127) ∧
      Request.endBound ⟨0x3F5FD0038, 0⟩ = some (.included 63)) ∧
    (Request.op ⟨0x00C000038, 0⟩ = 0x8 ∧ Request.endKind ⟨0x00C000038, 0⟩ = 3) ∧
    (decodeAddr 0x003 = some .fcsr ∧ readOnly .fcsr = false ∧
      ValidInterval W (canonStart (.excluded 62)) (canonEnd W .unbounded)) ∧
    (decodeAddr 0x003 = some .fcsr ∧ readOnly .fcsr = false ∧
      ¬ ValidInterval W (canonStart (.excluded 63)) (canonEnd W .unbounded)) ∧
    (decodeAddr 0xF11 = some .mvendorid ∧ readOnly .mvendorid = true) ∧ decodeAddr 0x999 = none := by decide

theorem witness_FailedRequestsChangeNothing :
    exec (.write 0xF11 1) (regs 0 0) = .next { regs 0 0 with response := some ⟨.readOnlyRegister, 0⟩ } ∧
    Status.readOnlyRegister ≠ .ok := ⟨rfl, by decide⟩

/-- One witness for each of the three premises: an error, a write-type op, a reset. -/
theorem witness_ErrorAndWriteResponsesCarryZero :
    exec (.read 0x999) (regs 0 0) = .next { regs 0 0 with response := some ⟨.unmappedRegister, 0⟩ } ∧
    (∃ t, exec (.write 0x003 1) (regs 0 0) = .next t ∧ t.response = some ⟨.ok, 0⟩) ∧
    (∃ t, exec (.resetReg 0x003) (regs 1 0) = .next t ∧ t.response = some ⟨.ok, 0⟩) :=
  ⟨rfl, ⟨_, rfl, rfl⟩, ⟨_, rfl, rfl⟩⟩

theorem witness_OnlyTheNamedRegisterChanges :
    ∃ t, exec (.write 0x003 1) (regs 0 0) = .next t ∧ (Instr.write 0x003 1).mayChange .misa = false :=
  ⟨_, rfl, by decide⟩

theorem witness_RequestsAreIdempotent : ∃ t, exec (.writeBit 0x003 0 true) (regs 0 0) = .next t := ⟨_, rfl⟩

theorem witness_RegistersDoNotObserveEachOther :
    (Instr.write 0x003 1).address = some 0x003 ∧ decodeAddr 0x003 = some .fcsr ∧
    (regs 0 0).csr .fcsr = (regs 0 7).csr .fcsr := by decide

theorem witness_WriteThenReadReturnsTheValue : (0x301 : Nat) = 0x003 ∨ (0x301 : Nat) = 0x301 := by decide

theorem witness_BitRangeRoundTrip :
    decodeAddr 0x003 = some .fcsr ∧ readOnly .fcsr = false ∧
    ValidInterval W (canonStart (.included 5)) (canonEnd W (.excluded 8)) := by decide

theorem witness_SingleBitRoundTrip :
    decodeAddr 0x301 = some .misa ∧ readOnly .misa = false ∧ 0 < W ∧ 63 < W ∧ (63 : Nat) ≠ 0 := by decide

/-- A state whose `por` pin is high, for the statements on power-on and reset. -/
theorem witness_PowerOnConstructsAndAcceptsNothing :
    State.porHigh { regs 5 5 with por := [true], requests := [⟨0x31, 1⟩] } = true ∧
    decodeAddr 0x301 = some .misa := by decide

theorem witness_ResetStateValues : State.porHigh { regs 5 5 with por := [true] } = true := by decide

theorem witness_ResetLaws : State.porHigh { regs 1 1 with por := [true, true] } = true := by decide

theorem witness_StepServesTheDecodedInstruction :
    State.porHigh { regs 0 0 with requests := [⟨0x30, 0⟩] } = false ∧
    State.requests { regs 0 0 with requests := [⟨0x30, 0⟩] } = ⟨0x30, 0⟩ :: [] ∧
    decode ⟨0x30, 0⟩ = some (.read 0x003) := by decide

/-- A reserved request and one that is not. -/
theorem witness_ReservedRequestsAreRefused :
    State.porHigh { regs 0 0 with requests := [⟨0x39, 0⟩] } = false ∧
    Request.Reserved ⟨0x39, 0⟩ ∧ ¬ Request.Reserved ⟨0x38, 0⟩ := by
  unfold Request.Reserved
  decide

theorem witness_IdleStepKeepsEveryRegister : (regs 1 2).porHigh = false ∧ (regs 1 2).requests = [] := by decide

theorem witness_PresentedWordRunsNext : decodeTableWord 40 0x000003010 = some (.read 0x301) := by decide

theorem witness_RegistersChangeOnlyByWritesResetsAndPowerOn :
    ∃ t, step { regs 0 0 with requests := [⟨0x31, 1⟩] } = .next t ∧
      t.csr .fcsr ≠ State.csr { regs 0 0 with requests := [⟨0x31, 1⟩] } .fcsr :=
  ⟨_, rfl, by decide⟩

theorem witness_EveryStepKeepsTheVendorId :
    State.reset.VendorIdKept ∧ ∃ t, step (State.reset.withFetchWord 40 0x00000F111) = .next t :=
  ⟨rfl, _, rfl⟩

theorem witness_VendorIdReadsTheSameAfterAnyRun :
    State.reset.VendorIdKept ∧ ∃ t, runSteps 3 (State.reset.withFetchWord 40 0x00000F111) = .next t :=
  ⟨rfl, _, rfl⟩

theorem witness_RequestsAreServedInOrder :
    (∀ i ∈ [Instr.write 0x003 5, .read 0x003], i.WellFormed) ∧
    State.PorLow { regs 0 0 with por := [false], requests := [Instr.write 0x003 5, .read 0x003].map encode } ∧
    State.requests { regs 0 0 with por := [false], requests := [Instr.write 0x003 5, .read 0x003].map encode } =
      [Instr.write 0x003 5, .read 0x003].map encode := by
  unfold State.PorLow
  decide

theorem witness_AdmissibleRunsNeverStop :
    State.Admissible { regs 0 0 with por := [true], requests := [⟨0x31, 1⟩] } := by
  unfold State.Admissible Request.Reserved
  decide

/-- A WRITE of FCSR, two requests that leave FCSR alone, and a READ of it. -/
def writeThenRead : State :=
  { regs 0 0 with
    requests := encode (.write 0x003 5) ::
      ([Instr.write 0x301 9, .lookup 0xF11].map encode ++ [encode (.read 0x003)]) }

theorem witness_ReadSeesTheLastWrite :
    decodeAddr 0x003 = some .fcsr ∧ readOnly .fcsr = false ∧
    (∀ i ∈ [Instr.write 0x301 9, .lookup 0xF11], i.WellFormed ∧ i.mayChange .fcsr = false) ∧
    writeThenRead.PorLow ∧
    writeThenRead.requests = encode (.write 0x003 5) ::
      ([Instr.write 0x301 9, .lookup 0xF11].map encode ++ [encode (.read 0x003)]) := by
  unfold State.PorLow
  decide

end Sys2Proof.Tests
end

/-! ### What a request does, said once -/

namespace Sys2Proof.Machine

/-- `r` is a next state that meets `Q`. -/
def Answers (Q : State → Prop) (r : Result) : Prop := ∃ t, r = .next t ∧ Q t

namespace Answers

variable {Q : State → Prop} {s t : State} {r : Result}

theorem next (h : Q t) : Answers Q (.next t) := ⟨t, rfl, h⟩

theorem of_next (h : Answers Q r) (hr : r = .next t) : Q t := by
  obtain ⟨u, hu, hq⟩ := h
  cases hr.symm.trans hu
  exact hq

theorem withKind {a : Nat} {body : Kind → Result} (herr : ∀ e, Answers Q (s.raise e))
    (hbody : ∀ k, decodeAddr a = some k → Answers Q (body k)) : Answers Q (s.withKind a body) := by
  rcases withKind_cases s a body with ⟨-, h⟩ | ⟨k, hk, h⟩ <;> rw [h]
  · exact herr _
  · exact hbody k hk

theorem ifWritable {k : Kind} (herr : ∀ e, Answers Q (s.raise e)) (hbody : readOnly k = false → Answers Q r) :
    Answers Q (s.ifWritable k r) := by
  rcases ifWritable_cases s k r with ⟨-, h⟩ | ⟨hk, h⟩ <;> rw [h]
  · exact herr _
  · exact hbody hk

theorem ifIndex {n : Nat} (herr : ∀ e, Answers Q (s.raise e)) (hbody : Answers Q r) : Answers Q (s.ifIndex n r) := by
  rcases ifIndex_cases s n r with ⟨-, h⟩ | ⟨-, h⟩ <;> rw [h]
  · exact herr _
  · exact hbody

theorem withInterval {sb eb : Bound} {body : Nat → Nat → Result} (herr : ∀ e, Answers Q (s.raise e))
    (hbody : ∀ start fin, Answers Q (body start fin)) : Answers Q (s.withInterval sb eb body) := by
  rcases withInterval_cases s sb eb body with ⟨-, h⟩ | ⟨-, h⟩ <;> rw [h]
  · exact herr _
  · exact hbody _ _

end Answers

/-- What a request can make of a state (R46, R126, R163): it only answers, or a write-type op stores into a register
that is not read-only, or a reset restores one register or all of them. -/
inductive Effect (i : Instr) (s : State) : State → Prop
  | answer (st : Status) (v : Word) : Effect i s (s.withResponse st v)
  | store (k : Kind) (v : Word) (hw : i.isWriteType = true) (hc : i.mayChange k = true) (hk : readOnly k = false) :
      Effect i s ((s.setCsr k v).withResponse .ok 0)
  | restore (k : Kind) (hr : i.isReset = true) (hc : i.mayChange k = true) :
      Effect i s ((s.resetKind k).withResponse .ok 0)
  | restoreAll (hi : i = .resetAll) : Effect i s ((State.resetMapped cfgBase s).withResponse .ok 0)

theorem answers_answer (i : Instr) (s : State) (st : Status) (v : Word) :
    Answers (Effect i s) (.next (s.withResponse st v)) := .next (.answer st v)

theorem answers_raise (i : Instr) (s : State) (e : Status) : Answers (Effect i s) (s.raise e) :=
  answers_answer i s e 0

theorem answers_writeValue {i : Instr} (s : State) {k : Kind} (v : Word) (hw : i.isWriteType = true)
    (hc : i.mayChange k = true) (hk : readOnly k = false) :
    Answers (Effect i s) ((s.writeValue k v).respondOk 0) := by
  rw [writeValue_of_writable s v hk]
  exact .next (.store k v hw hc hk)

/-- Every instruction answers a next state, and `Effect` says all it can be. -/
theorem exec_effect (i : Instr) (s : State) : Answers (Effect i s) (exec i s) := by
  have herr := answers_raise i s
  cases i with
  | read a => exact .withKind herr fun _ _ => answers_answer _ s ..
  | lookup a => exact .withKind herr fun _ _ => answers_answer _ s ..
  | readBit a n => exact .withKind herr fun _ _ => .ifIndex herr (answers_answer _ s ..)
  | readBits a sb eb => exact .withKind herr fun _ _ => .withInterval herr fun _ _ => answers_answer _ s ..
  | resetAll => exact .next (.restoreAll rfl)
  | resetReg a => exact .withKind herr fun k hk => .next (.restore k rfl (decide_eq_true hk))
  | write a v =>
    exact .withKind herr fun k hk => .ifWritable herr fun hw =>
      answers_writeValue s _ rfl (decide_eq_true hk) hw
  | writeBit a n bit =>
    exact .withKind herr fun k hk => .ifWritable herr fun hw => .ifIndex herr
      (answers_writeValue s _ rfl (decide_eq_true hk) hw)
  | writeBits a sb eb x =>
    exact .withKind herr fun k hk => .ifWritable herr fun hw => .withInterval herr fun _ _ =>
      answers_writeValue s _ rfl (decide_eq_true hk) hw

theorem effect_of_exec {i : Instr} {s t : State} (h : exec i s = .next t) : Effect i s t :=
  (exec_effect i s).of_next h

/-- An effect keeps every register that R46 does not let the instruction change. -/
theorem Effect.csr_eq_of_not_mayChange {i : Instr} {s t : State} {k : Kind} (h : Effect i s t)
    (hk : i.mayChange k = false) : t.csr k = s.csr k := by
  have hne : ∀ j, i.mayChange j = true → k ≠ j := by rintro _ hj rfl; simp [hk] at hj
  cases h with
  | answer st v => simp
  | store j v hw hc hj => simp [hne j hc]
  | restore j hr hc => simp [State.resetKind, hne j hc]
  | restoreAll hi => subst hi; cases hk

/-- An effect leaves a read-only register as it was or restores its power-on value (R108, R125). -/
theorem Effect.csr_of_readOnly {i : Instr} {s t : State} {k : Kind} (h : Effect i s t) (hk : readOnly k = true) :
    t.csr k = s.csr k ∨ t.csr k = powerOnValue k := by
  cases h with
  | answer st v => simp
  | store j v hw hc hj =>
    have hne : k ≠ j := by rintro rfl; simp [hk] at hj
    simp [hne]
  | restore j hr hc => by_cases hj : k = j <;> simp [State.resetKind, hj]
  | restoreAll hi => simp [csr_resetMapped]

/-- Settles O27: by `Effect`, a request stores into or restores only a register that R46 lets it change. -/
theorem onlyTheNamedRegisterChanges : Obligations.OnlyTheNamedRegisterChanges :=
  fun _ _ _ _ h hk => (effect_of_exec h).csr_eq_of_not_mayChange hk

/-! ### READ and WRITE at a mapped address -/

theorem exec_read_of_mapped {a : Nat} {k : Kind} (s : State) (hk : decodeAddr a = some k) :
    exec (.read a) s = .next (s.withResponse .ok (s.csr k)) :=
  withKind_some hk

theorem exec_write_of_writable {a : Nat} {k : Kind} (s : State) (v : Word) (hk : decodeAddr a = some k)
    (hw : readOnly k = false) : exec (.write a v) s = .next ((s.setCsr k v).withResponse .ok 0) := by
  calc exec (.write a v) s = s.ifWritable k ((s.writeValue k v).respondOk 0) := withKind_some hk
    _ = (s.writeValue k v).respondOk 0 := by simp [State.ifWritable, hw]
    _ = .next ((s.setCsr k v).withResponse .ok 0) := by rw [writeValue_of_writable s v hw]; rfl

theorem exec_write_of_readOnly {a : Nat} {k : Kind} (s : State) (v : Word) (hk : decodeAddr a = some k)
    (hr : readOnly k = true) : exec (.write a v) s = .next (s.withResponse .readOnlyRegister 0) := by
  calc exec (.write a v) s = s.ifWritable k ((s.writeValue k v).respondOk 0) := withKind_some hk
    _ = s.raise .readOnlyRegister := by simp [State.ifWritable, hr]

/-- A READ straight after a WRITE of a register that is not read-only answers the value written (R24, R27). -/
theorem read_after_write {a : Nat} {k : Kind} (s : State) (v : Word) (hk : decodeAddr a = some k)
    (hw : readOnly k = false) :
    ∃ t u, exec (.write a v) s = .next t ∧ exec (.read a) t = .next u ∧ u.response = some ⟨.ok, v⟩ :=
  ⟨_, _, exec_write_of_writable s v hk hw, exec_read_of_mapped _ hk, by simp⟩

/-- Settles O30: neither FCSR nor MISA is read-only, so each stores every bit of the value. -/
theorem writeThenReadReturnsTheValue : Obligations.WriteThenReadReturnsTheValue := by
  rintro a v s (rfl | rfl)
  · exact read_after_write (k := .fcsr) s v rfl rfl
  · exact read_after_write (k := .misa) s v rfl rfl

/-! ### The vendor ID invariant -/

/-- Settles O43: `State.reset` holds the constant the invariant names. -/
theorem vendorIdHoldsAtReset : Obligations.VendorIdHoldsAtReset := rfl

/-- A step leaves a read-only register as it was or at its power-on value, whatever the step does. -/
theorem step_csr_of_readOnly {s t : State} {k : Kind} (hk : readOnly k = true) (h : step s = .next t) :
    t.csr k = s.csr k ∨ t.csr k = powerOnValue k := by
  rcases step_next_cases h with ⟨-, rfl⟩ | ⟨-, -, rfl⟩ | ⟨-, r, rest, i, -, -, hexec⟩
  · exact .inr (csr_resetMapped _ k)
  · exact .inl (csr_sampled s k)
  · simpa using (effect_of_exec hexec).csr_of_readOnly hk

/-- Settles O44: MVENDORID is read-only, so a step keeps it or restores the very value the invariant names. -/
theorem everyStepKeepsTheVendorId : Obligations.EveryStepKeepsTheVendorId := by
  intro s t hs h
  rcases step_csr_of_readOnly (k := .mvendorid) rfl h with hsame | hreset
  · exact hsame.trans hs
  · exact hreset

/-- What every step keeps, every run keeps. -/
theorem runSteps_keeps {Inv : State → Prop} (hstep : ∀ s t, Inv s → step s = .next t → Inv t) (n : Nat) :
    ∀ {s t : State}, Inv s → runSteps n s = .next t → Inv t := by
  induction n with
  | zero => intro s t hs h; cases h; exact hs
  | succ n ih =>
    intro s t hs h
    obtain ⟨u, hu, hrest⟩ := runSteps_succ_next h
    exact ih (hstep s u hs hu) hrest

/-- Settles O45: the invariant holds after the run, and READ and WRITE observe it there. -/
theorem vendorIdReadsTheSameAfterAnyRun : Obligations.VendorIdReadsTheSameAfterAnyRun := by
  intro n s t hs h
  have ht : t.csr .mvendorid = Config.mvendoridValue := runSteps_keeps everyStepKeepsTheVendorId n hs h
  constructor
  · rw [exec_read_of_mapped t (k := .mvendorid) rfl, ht]
    rfl
  · exact fun v => exec_write_of_readOnly t v (k := .mvendorid) rfl rfl

/-! ### Independence of the other registers -/

/-- Two results are next states that show the same response and the same value in register `k`. -/
def AgreeOn (k : Kind) (r r' : Result) : Prop :=
  ∃ s' t', r = .next s' ∧ r' = .next t' ∧ s'.response = t'.response ∧ s'.csr k = t'.csr k

namespace AgreeOn

variable {s t : State} {k : Kind} {r r' : Result}

theorem respondOk {v w : Word} (h : s.csr k = t.csr k) (hv : v = w) :
    AgreeOn k (s.respondOk v) (t.respondOk w) :=
  ⟨_, _, rfl, rfl, by simp [hv], by simpa using h⟩

theorem raise (h : s.csr k = t.csr k) (e : Status) : AgreeOn k (s.raise e) (t.raise e) :=
  ⟨_, _, rfl, rfl, by simp, by simpa using h⟩

theorem withKind {a : Nat} {body body' : Kind → Result} (hk : decodeAddr a = some k)
    (hb : AgreeOn k (body k) (body' k)) : AgreeOn k (s.withKind a body) (t.withKind a body') := by
  rwa [withKind_some hk, withKind_some hk]

theorem ifWritable (h : s.csr k = t.csr k) (hb : AgreeOn k r r') :
    AgreeOn k (s.ifWritable k r) (t.ifWritable k r') := by
  unfold State.ifWritable
  split
  · exact raise h _
  · exact hb

theorem ifIndex {n : Nat} (h : s.csr k = t.csr k) (hb : AgreeOn k r r') :
    AgreeOn k (s.ifIndex n r) (t.ifIndex n r') := by
  unfold State.ifIndex
  split
  · exact hb
  · exact raise h _

theorem withInterval {sb eb : Bound} {body body' : Nat → Nat → Result} (h : s.csr k = t.csr k)
    (hb : ∀ start fin, AgreeOn k (body start fin) (body' start fin)) :
    AgreeOn k (s.withInterval sb eb body) (t.withInterval sb eb body') := by
  unfold State.withInterval
  split
  · exact hb _ _
  · exact raise h _

theorem writeValue {v w : Word} (h : s.csr k = t.csr k) (hv : v = w) :
    AgreeOn k ((s.writeValue k v).respondOk 0) ((t.writeValue k w).respondOk 0) :=
  respondOk (by simp [State.writeValue, h, hv]) rfl

/-- Each meaning reads no register but the one its address names. -/
theorem exec_at_mapped {i : Instr} {a : Nat} (ha : i.address = some a) (hk : decodeAddr a = some k)
    (h : s.csr k = t.csr k) : AgreeOn k (exec i s) (exec i t) := by
  cases i with
  | resetAll => cases ha
  | read _ => cases ha; exact withKind hk (respondOk h h)
  | lookup _ => cases ha; exact withKind hk (respondOk h rfl)
  | readBit _ n => cases ha; exact withKind hk (ifIndex h (respondOk h (congrArg (bitGet · n) h)))
  | readBits _ sb eb =>
    cases ha
    exact withKind hk (withInterval h fun start fin => respondOk h (congrArg (extractField · start fin) h))
  | resetReg _ => cases ha; exact withKind hk (respondOk (by simp [State.resetKind]) rfl)
  | write _ v => cases ha; exact withKind hk (ifWritable h (writeValue h rfl))
  | writeBit _ n bit =>
    cases ha
    exact withKind hk (ifWritable h (ifIndex h (writeValue h (congrArg (bitPut · n bit) h))))
  | writeBits _ sb eb x =>
    cases ha
    exact withKind hk (ifWritable h (withInterval h fun start fin =>
      writeValue h (congrArg (insertField · start fin x) h)))

end AgreeOn

/-- Settles O29: run from both states, the request's checks and accessors agree on the register it names. -/
theorem registersDoNotObserveEachOther : Obligations.RegistersDoNotObserveEachOther :=
  fun _ _ _ _ _ ha hk h => AgreeOn.exec_at_mapped ha hk h

end Sys2Proof.Machine

/-! ### Repeating a request -/

namespace Sys2Proof.Machine

/-- Writing a field twice is writing it once: the second write keeps what is outside and ORs in the same bits (R88). -/
theorem insertField_idem {w : Nat} (old x : BitVec w) (start fin : Nat) :
    insertField (insertField old start fin x) start fin x = insertField old start fin x := by
  simp only [insertField]
  generalize truncField x start fin <<< start = field
  ext i
  simp only [BitVec.getElem_or, BitVec.getElem_and]
  cases field[i] <;> simp

/-- Whatever `f` answers, it answers again from the state it left. -/
def Repeatable (f : State → Result) : Prop := ∀ s t, f s = .next t → f t = .next t

namespace Repeatable

theorem raise (e : Status) : Repeatable fun s => s.raise e := by
  rintro s _ ⟨⟩
  rfl

/-- An answer is repeatable when it does not depend on the response port. -/
theorem respondOk {value : State → Word} (h : ∀ s st v, value (s.withResponse st v) = value s) :
    Repeatable fun s => s.respondOk (value s) := by
  rintro s _ ⟨⟩
  simp [State.respondOk, h]

/-- Storing in one register a value got from it is repeatable when getting it twice is getting it once. -/
theorem setCsr {k : Kind} {update : Word → Word} (h : ∀ v, update (update v) = update v) :
    Repeatable fun s => (s.setCsr k (update (s.csr k))).respondOk 0 := by
  rintro s _ ⟨⟩
  simp [State.respondOk, setCsr_withResponse, h]

theorem writeValue {k : Kind} {update : Word → Word} (hw : readOnly k = false)
    (h : ∀ v, update (update v) = update v) :
    Repeatable fun s => (s.writeValue k (update (s.csr k))).respondOk 0 := by
  simpa only [writeValue_of_writable _ _ hw] using setCsr h

/-! The checks look at the request alone, so the repeated request takes the same branch. -/

theorem withKind {a : Nat} {body : Kind → State → Result} (h : ∀ k, Repeatable (body k)) :
    Repeatable fun s => s.withKind a fun k => body k s := by
  unfold State.withKind
  split
  · exact raise _
  · exact h _

theorem ifWritable {k : Kind} {body : State → Result} (h : readOnly k = false → Repeatable body) :
    Repeatable fun s => s.ifWritable k (body s) := by
  cases hk : readOnly k with
  | true => simpa [State.ifWritable, hk] using raise _
  | false => simpa [State.ifWritable, hk] using h hk

theorem ifIndex {n : Nat} {body : State → Result} (h : Repeatable body) :
    Repeatable fun s => s.ifIndex n (body s) := by
  unfold State.ifIndex
  split
  · exact h
  · exact raise _

theorem withInterval {sb eb : Bound} {body : Nat → Nat → State → Result}
    (h : ∀ start fin, Repeatable (body start fin)) :
    Repeatable fun s => s.withInterval sb eb fun start fin => body start fin s := by
  unfold State.withInterval
  split
  · exact h _ _
  · exact raise _

end Repeatable

/-- RESET_ALL restores the same constants both times (R124). -/
theorem execResetAll_repeatable : Repeatable execResetAll := by
  rintro s _ ⟨⟩
  rfl

theorem exec_repeatable (i : Instr) : Repeatable (exec i) := by
  cases i with
  | resetAll => exact execResetAll_repeatable
  | read a => exact .withKind fun k => .respondOk fun s st v => csr_withResponse s st v k
  | lookup a => exact .withKind fun k => .respondOk fun _ _ _ => rfl
  | readBit a n =>
    exact .withKind fun k => .ifIndex (.respondOk fun s st v => congrArg (bitGet · n) (csr_withResponse s st v k))
  | readBits a sb eb =>
    exact .withKind fun k => .withInterval fun start fin =>
      .respondOk fun s st v => congrArg (extractField · start fin) (csr_withResponse s st v k)
  | resetReg a => exact .withKind fun k => .setCsr (update := fun _ => powerOnValue k) fun _ => rfl
  | write a v => exact .withKind fun k => .ifWritable fun hw => .writeValue (update := fun _ => v) hw fun _ => rfl
  | writeBit a n bit =>
    exact .withKind fun k => .ifWritable fun hw => .ifIndex
      (.writeValue (update := (bitPut · n bit)) hw fun v => insertField_idem v _ _ _)
  | writeBits a sb eb x =>
    exact .withKind fun k => .ifWritable fun hw => .withInterval fun start fin =>
      .writeValue (update := (insertField · start fin x)) hw fun v => insertField_idem v _ _ _

/-- Settles O28: every meaning is built from repeatable checks, answers and stores. -/
theorem requestsAreIdempotent : Obligations.RequestsAreIdempotent := exec_repeatable

end Sys2Proof.Machine

/-! ### Decoding an encoded instruction -/

namespace Sys2Proof

/-- Every field's value fits its place in the command word (R62). -/
structure FieldsFit (op addr sk sb ek eb : Nat) : Prop where
  op : op < 16
  addr : addr < 4096
  sk : sk < 4
  sb : sb < 256
  ek : ek < 4
  eb : eb < 256

namespace FieldsFit

variable {op addr sk sb ek eb : Nat}

/-- A field of a command word whose fields fit, as a quotient and remainder of the word's number. -/
theorem extract_toNat (h : FieldsFit op addr sk sb ek eb) (lo len : Nat) :
    ((cmdWord op addr sk sb ek eb).extractLsb' lo len).toNat =
      (op + addr * 2 ^ 4 + sk * 2 ^ 16 + sb * 2 ^ 18 + ek * 2 ^ 26 + eb * 2 ^ 28) / 2 ^ lo % 2 ^ len := by
  rw [field_toNat, cmdWord_toNat h.op h.addr h.sk h.sb h.ek h.eb]

theorem request_op (h : FieldsFit op addr sk sb ek eb) (x : Word) :
    Request.op ⟨cmdWord op addr sk sb ek eb, x⟩ = op :=
  Laws.op_of_cmdWord x h.op h.addr h.sk h.sb h.ek h.eb

theorem request_addr (h : FieldsFit op addr sk sb ek eb) (x : Word) :
    Request.addr ⟨cmdWord op addr sk sb ek eb, x⟩ = addr := by
  rw [Request.addr, h.extract_toNat]
  cases h
  omega

theorem request_startKind (h : FieldsFit op addr sk sb ek eb) (x : Word) :
    Request.startKind ⟨cmdWord op addr sk sb ek eb, x⟩ = sk := by
  rw [Request.startKind, h.extract_toNat]
  cases h
  omega

theorem request_startValue (h : FieldsFit op addr sk sb ek eb) (x : Word) :
    Request.startValue ⟨cmdWord op addr sk sb ek eb, x⟩ = sb := by
  rw [Request.startValue, h.extract_toNat]
  cases h
  omega

theorem request_endKind (h : FieldsFit op addr sk sb ek eb) (x : Word) :
    Request.endKind ⟨cmdWord op addr sk sb ek eb, x⟩ = ek := by
  rw [Request.endKind, h.extract_toNat]
  cases h
  omega

theorem request_endValue (h : FieldsFit op addr sk sb ek eb) (x : Word) :
    Request.endValue ⟨cmdWord op addr sk sb ek eb, x⟩ = eb := by
  rw [Request.endValue, h.extract_toNat]
  cases h
  omega

end FieldsFit

/-- The fields of an instruction with two bounds fit; with `(U, U)` they are those of one with an address alone. -/
theorem fieldsFit_of_bounds {op a : Nat} {sb eb : Bound} (hop : op < 16) (ha : addrWf a = true) (hs : sb.wf = true)
    (he : eb.wf = true) : FieldsFit op a sb.kindCode sb.value eb.kindCode eb.value :=
  ⟨hop, of_decide_eq_true ha, kindCode_lt sb, value_lt hs, kindCode_lt eb, value_lt he⟩

theorem fieldsFit_of_addr {op a : Nat} (hop : op < 16) (ha : addrWf a = true) : FieldsFit op a 0 0 0 0 :=
  fieldsFit_of_bounds (sb := .unbounded) (eb := .unbounded) hop ha rfl rfl

theorem fieldsFit_of_index {op a n : Nat} (hop : op < 16) (ha : addrWf a = true) (hn : indexWf n = true) :
    FieldsFit op a 0 n 0 0 :=
  ⟨hop, of_decide_eq_true ha, by decide, of_decide_eq_true hn, by decide, by decide⟩

/-- The start bound of a command word that carries the two bounds' codes and values (R64). -/
theorem startBound_of_fit {op a : Nat} {sb eb : Bound}
    (h : FieldsFit op a sb.kindCode sb.value eb.kindCode eb.value) (x : Word) :
    Request.startBound ⟨cmdWord op a sb.kindCode sb.value eb.kindCode eb.value, x⟩ = some sb := by
  rw [Request.startBound, h.request_startKind, h.request_startValue, decodeBound_encoded]

/-- The end bound, likewise. -/
theorem endBound_of_fit {op a : Nat} {sb eb : Bound}
    (h : FieldsFit op a sb.kindCode sb.value eb.kindCode eb.value) (x : Word) :
    Request.endBound ⟨cmdWord op a sb.kindCode sb.value eb.kindCode eb.value, x⟩ = some eb := by
  rw [Request.endBound, h.request_endKind, h.request_endValue, decodeBound_encoded]

/-! One equation of the decoder per op code (R63). -/

section
variable {r : Request}

theorem decode_of_op_read (h : r.op = 0x0) : decode r = some (.read r.addr) := by simp [decode, h]

theorem decode_of_op_write (h : r.op = 0x1) : decode r = some (.write r.addr r.wdata) := by simp [decode, h]

theorem decode_of_op_lookup (h : r.op = 0x2) : decode r = some (.lookup r.addr) := by simp [decode, h]

theorem decode_of_op_resetAll (h : r.op = 0x3) : decode r = some .resetAll := by simp [decode, h]

theorem decode_of_op_resetReg (h : r.op = 0x4) : decode r = some (.resetReg r.addr) := by simp [decode, h]

theorem decode_of_op_readBit (h : r.op = 0x5) : decode r = some (.readBit r.addr r.startValue) := by simp [decode, h]

theorem decode_of_op_writeBit (h : r.op = 0x6) :
    decode r = some (.writeBit r.addr r.startValue (r.wdata.getLsbD 0)) := by simp [decode, h]

theorem decode_of_op_readBits {sb eb : Bound} (h : r.op = 0x7) (hs : r.startBound = some sb)
    (he : r.endBound = some eb) : decode r = some (.readBits r.addr sb eb) := by simp [decode, h, hs, he]

theorem decode_of_op_writeBits {sb eb : Bound} (h : r.op = 0x8) (hs : r.startBound = some sb)
    (he : r.endBound = some eb) : decode r = some (.writeBits r.addr sb eb r.wdata) := by simp [decode, h, hs, he]

end

/-- WRITE_BIT's bit is bit 0 of its write data (R65). -/
theorem writeBit_wdata_getLsbD_zero (a n : Nat) (bit : Bool) : (Instr.writeBit a n bit).wdata.getLsbD 0 = bit := by
  cases bit <;> simp [Instr.wdata]

/-- The decoder gives a well-formed instruction back: each field it reads is the field the encoder wrote. -/
theorem decode_encode {i : Instr} (h : i.WellFormed) : decode (encode i) = some i := by
  cases i with
  | resetAll => decide
  | read a =>
    have hf := fieldsFit_of_addr (op := 0x0) (by decide) h
    exact (decode_of_op_read (hf.request_op _)).trans (by rw [hf.request_addr])
  | write a v =>
    have hf := fieldsFit_of_addr (op := 0x1) (by decide) h
    exact (decode_of_op_write (hf.request_op v)).trans (by rw [hf.request_addr])
  | lookup a =>
    have hf := fieldsFit_of_addr (op := 0x2) (by decide) h
    exact (decode_of_op_lookup (hf.request_op _)).trans (by rw [hf.request_addr])
  | resetReg a =>
    have hf := fieldsFit_of_addr (op := 0x4) (by decide) h
    exact (decode_of_op_resetReg (hf.request_op _)).trans (by rw [hf.request_addr])
  | readBit a n =>
    obtain ⟨ha, hn⟩ : addrWf a = true ∧ indexWf n = true := by simpa [Instr.WellFormed, Instr.wf] using h
    have hf := fieldsFit_of_index (op := 0x5) (by decide) ha hn
    exact (decode_of_op_readBit (hf.request_op _)).trans (by rw [hf.request_addr, hf.request_startValue])
  | writeBit a n bit =>
    obtain ⟨ha, hn⟩ : addrWf a = true ∧ indexWf n = true := by simpa [Instr.WellFormed, Instr.wf] using h
    have hf := fieldsFit_of_index (op := 0x6) (by decide) ha hn
    exact (decode_of_op_writeBit (hf.request_op _)).trans
      (by rw [hf.request_addr, hf.request_startValue, writeBit_wdata_getLsbD_zero])
  | readBits a sb eb =>
    obtain ⟨⟨ha, hs⟩, he⟩ : (addrWf a = true ∧ sb.wf = true) ∧ eb.wf = true := by
      simpa [Instr.WellFormed, Instr.wf] using h
    have hf := fieldsFit_of_bounds (op := 0x7) (by decide) ha hs he
    exact (decode_of_op_readBits (hf.request_op _) (startBound_of_fit hf _) (endBound_of_fit hf _)).trans
      (by rw [hf.request_addr])
  | writeBits a sb eb x =>
    obtain ⟨⟨ha, hs⟩, he⟩ : (addrWf a = true ∧ sb.wf = true) ∧ eb.wf = true := by
      simpa [Instr.WellFormed, Instr.wf] using h
    have hf := fieldsFit_of_bounds (op := 0x8) (by decide) ha hs he
    exact (decode_of_op_writeBits (hf.request_op x) (startBound_of_fit hf _) (endBound_of_fit hf _)).trans
      (by rw [hf.request_addr])

end Sys2Proof

/-! ### A request's meaning under other input ports -/

namespace Sys2Proof.Machine

/-- A request takes nothing off the ports (R61). -/
theorem Effect.sameInputs {i : Instr} {s t : State} (h : Effect i s t) : State.SameInputs s t := by
  cases h with
  | answer st v => exact ⟨rfl, rfl⟩
  | store k v hw hc hk => simp [State.SameInputs]
  | restore k hr hc => simp [State.SameInputs, State.resetKind]
  | restoreAll hi => exact ⟨rfl, rfl⟩

theorem exec_of_unmapped {i : Instr} {a : Nat} (s : State) (ha : i.address = some a) (hu : decodeAddr a = none) :
    exec i s = s.raise .unmappedRegister := by
  cases i <;> cases ha <;> exact withKind_none hu

theorem eq_resetAll_of_address_eq_none {i : Instr} (h : i.address = none) : i = .resetAll := by
  cases i with
  | resetAll => rfl
  | _ => cases h

/-- Among the registers, a request with a mapped address may change that address's alone (R46). -/
theorem eq_of_mayChange {i : Instr} {a : Nat} {k j : Kind} (ha : i.address = some a) (hk : decodeAddr a = some k)
    (hj : i.mayChange j = true) : j = k := by
  cases i <;> simp_all [Instr.address, Instr.mayChange]

/-- Two states that show the same registers and the same response; their input ports may differ. -/
def State.SameView (s t : State) : Prop := State.SameRegisters s t ∧ t.response = s.response

/-- From states with the same registers an instruction leaves states with the same registers and the same response,
whatever stands on the ports. -/
theorem exec_sameView (i : Instr) {s t : State} (h : State.SameRegisters s t) :
    ∃ s' t', exec i s = .next s' ∧ exec i t = .next t' ∧ State.SameView s' t' := by
  cases ha : i.address with
  | none =>
    obtain rfl := eq_resetAll_of_address_eq_none ha
    exact ⟨_, _, rfl, rfl, fun k => by simp [csr_resetMapped], rfl⟩
  | some a =>
    cases hk : decodeAddr a with
    | none =>
      exact ⟨_, _, exec_of_unmapped s ha hk, exec_of_unmapped t ha hk, fun k => by simpa using h k, rfl⟩
    | some k =>
      obtain ⟨s', t', hs, ht, hresp, hcsr⟩ := AgreeOn.exec_at_mapped ha hk (h k).symm
      refine ⟨s', t', hs, ht, fun j => ?_, hresp.symm⟩
      cases hj : i.mayChange j with
      | false =>
        rw [(effect_of_exec hs).csr_eq_of_not_mayChange hj, (effect_of_exec ht).csr_eq_of_not_mayChange hj, h j]
      | true =>
        obtain rfl := eq_of_mayChange ha hk hj
        exact hcsr.symm

/-! ### Requests served in a row -/

/-- With no power-on coming, a step serves the well-formed instruction presented first (R61). -/
theorem step_of_presented {s : State} {i : Instr} {rest : List Request} (hi : i.WellFormed) (hp : s.PorLow)
    (hr : s.requests = encode i :: rest) : step s = exec i (s.sampled.withRequests rest) := by
  simp [step, porHigh_of_all_low hp, hr, serve, decode_encode hi]

theorem execInOrder_cons_of_next {i : Instr} {s t : State} (l : List Instr) (h : exec i s = .next t) :
    execInOrder (i :: l) s = execInOrder l t := by
  simp [execInOrder, h]

/-- The run that serves presented instructions keeps in view with the meanings in order: `s` is the machine's state and
`s'` one with the same registers, where the next instruction is to run. The responses need not agree before the first. -/
theorem runSteps_sameView (l : List Instr) :
    ∀ {s s' : State}, (∀ i ∈ l, i.WellFormed) → s.PorLow → s.requests = l.map encode → State.SameRegisters s' s →
      ∃ t t', runSteps l.length s = .next t ∧ execInOrder l s' = .next t' ∧ t.requests = [] ∧
        State.SameRegisters t' t ∧ (l ≠ [] ∨ s.response = s'.response → t.response = t'.response) := by
  induction l with
  | nil =>
    intro s s' _ _ hr hsame
    exact ⟨s, s', rfl, rfl, hr, hsame, fun h => h.resolve_left fun hne => hne rfl⟩
  | cons i l ih =>
    intro s s' hwf hp hr hsame
    obtain ⟨hi, hl⟩ := List.forall_mem_cons.mp hwf
    obtain ⟨u', u, hu', hu, hregs, hresp⟩ :=
      exec_sameView i (s := s') (t := s.sampled.withRequests (l.map encode)) fun k => by simpa using hsame k
    obtain ⟨hreq, hpor⟩ := (effect_of_exec hu).sameInputs
    have hlow : u.PorLow := fun level hlevel => hp level (List.mem_of_mem_tail (by simpa [hpor] using hlevel))
    obtain ⟨t, t', hrun, hexec, hnone, hsame', hresp'⟩ := ih hl hlow hreq hregs
    refine ⟨t, t', ?_, ?_, hnone, hsame', fun _ => hresp' (.inr hresp)⟩
    · exact (runSteps_succ_of_next _ ((step_of_presented hi hp hr).trans hu)).trans hrun
    · exact (execInOrder_cons_of_next l hu').trans hexec

/-- Settles O46: the state itself is the one whose registers the meanings start from. -/
theorem requestsAreServedInOrder : Obligations.RequestsAreServedInOrder := by
  intro l s hwf hp hr
  obtain ⟨t, u, hrun, hexec, hnone, hsame, hresp⟩ := runSteps_sameView l hwf hp hr (fun _ => rfl)
  exact ⟨t, u, hrun, hexec, hnone, hsame, fun hne => hresp (.inl hne)⟩

theorem execInOrder_append_of_next {l : List Instr} (l' : List Instr) :
    ∀ {s t : State}, execInOrder l s = .next t → execInOrder (l ++ l') s = execInOrder l' t := by
  induction l with
  | nil => rintro s _ ⟨⟩; rfl
  | cons i l ih =>
    intro s t h
    obtain ⟨u, hu, -⟩ := exec_effect i s
    rw [execInOrder_cons_of_next _ hu] at h
    exact (execInOrder_cons_of_next _ hu).trans (ih h)

/-- Instructions that may not change a register leave it as it was (R46). -/
theorem execInOrder_keeps_csr {k : Kind} (l : List Instr) :
    ∀ s : State, (∀ i ∈ l, i.mayChange k = false) → ∃ t, execInOrder l s = .next t ∧ t.csr k = s.csr k := by
  induction l with
  | nil => exact fun s _ => ⟨s, rfl, rfl⟩
  | cons i l ih =>
    intro s hl
    obtain ⟨hi, hl⟩ := List.forall_mem_cons.mp hl
    obtain ⟨u, hu, heffect⟩ := exec_effect i s
    obtain ⟨t, ht, hcsr⟩ := ih u hl
    exact ⟨t, (execInOrder_cons_of_next l hu).trans ht, hcsr.trans (heffect.csr_eq_of_not_mayChange hi)⟩

/-- In the meanings' order: a READ after a WRITE of the same register answers the value, when nothing between changes
that register. -/
theorem execInOrder_write_read {a : Nat} {k : Kind} (v : Word) {mid : List Instr} (s : State)
    (hk : decodeAddr a = some k) (hw : readOnly k = false) (hmid : ∀ i ∈ mid, i.mayChange k = false) :
    ∃ t, execInOrder (.write a v :: (mid ++ [.read a])) s = .next t ∧ t.response = some ⟨.ok, v⟩ := by
  obtain ⟨t, ht, hcsr⟩ := execInOrder_keeps_csr mid ((s.setCsr k v).withResponse .ok 0) hmid
  refine ⟨t.withResponse .ok (t.csr k), ?_, by simp [hcsr]⟩
  calc execInOrder (.write a v :: (mid ++ [.read a])) s
      = execInOrder (mid ++ [.read a]) ((s.setCsr k v).withResponse .ok 0) :=
        execInOrder_cons_of_next _ (exec_write_of_writable s v hk hw)
    _ = execInOrder [.read a] t := execInOrder_append_of_next _ ht
    _ = .next (t.withResponse .ok (t.csr k)) := execInOrder_cons_of_next [] (exec_read_of_mapped t hk)

/-- Settles O48: the run answers what the meanings in order answer (O46), and those keep the register from the WRITE to
the READ. -/
theorem readSeesTheLastWrite : Obligations.ReadSeesTheLastWrite := by
  intro a k v mid s hk hw hmid hp hr
  have ha := addrWf_of_mapped hk
  have hwf : ∀ i ∈ Instr.write a v :: (mid ++ [.read a]), i.WellFormed := by
    simp only [List.forall_mem_cons, List.forall_mem_append]
    exact ⟨ha, fun i hi => (hmid i hi).1, ha, by simp⟩
  obtain ⟨t, u, hrun, hexec, -, -, hresp⟩ := requestsAreServedInOrder _ s hwf hp (by simpa using hr)
  obtain ⟨u', hexec', hvalue⟩ := execInOrder_write_read v s hk hw fun i hi => (hmid i hi).2
  obtain rfl := Host.Outcome.next.inj (hexec.symm.trans hexec')
  exact ⟨t, by simpa using hrun, (hresp (by simp)).trans hvalue⟩

end Sys2Proof.Machine

/-! ### The decoder, read backwards -/

namespace Sys2Proof

/-- Settles O2: each field the decoder reads is the field the encoder wrote. -/
theorem decodeEncodeRoundTrip : Obligations.DecodeEncodeRoundTrip := fun _ => decode_encode

/-- Everything the decoder can make of a request: one of the nine ops, from the fields that R63 lists for it, or
nothing, for a reserved op code or bound kind (R70, R71). -/
inductive Decoded (r : Request) : Option Instr → Prop
  | read (h : r.op = 0x0) : Decoded r (some (.read r.addr))
  | write (h : r.op = 0x1) : Decoded r (some (.write r.addr r.wdata))
  | lookup (h : r.op = 0x2) : Decoded r (some (.lookup r.addr))
  | resetAll (h : r.op = 0x3) : Decoded r (some .resetAll)
  | resetReg (h : r.op = 0x4) : Decoded r (some (.resetReg r.addr))
  | readBit (h : r.op = 0x5) : Decoded r (some (.readBit r.addr r.startValue))
  | writeBit (h : r.op = 0x6) : Decoded r (some (.writeBit r.addr r.startValue (r.wdata.getLsbD 0)))
  | readBits (sb eb : Bound) (h : r.op = 0x7) (hs : r.startBound = some sb) (he : r.endBound = some eb) :
      Decoded r (some (.readBits r.addr sb eb))
  | writeBits (sb eb : Bound) (h : r.op = 0x8) (hs : r.startBound = some sb) (he : r.endBound = some eb) :
      Decoded r (some (.writeBits r.addr sb eb r.wdata))
  | reservedBound (h : r.op = 0x7 ∨ r.op = 0x8) (hb : r.startBound = none ∨ r.endBound = none) : Decoded r none
  | reservedOp (h : 9 ≤ r.op) : Decoded r none

theorem decode_of_reserved_bound {r : Request} (h : r.op = 0x7 ∨ r.op = 0x8)
    (hb : r.startBound = none ∨ r.endBound = none) : decode r = none := by
  rcases h with h | h <;> rcases hb with hb | hb <;> simp [decode, h, hb]

theorem decode_of_reserved_op {r : Request} (h : 9 ≤ r.op) : decode r = none := by
  obtain ⟨n, hn⟩ := Nat.exists_eq_add_of_le' h
  simp [decode, hn]

/-- The op field holds one of the nine codes or a reserved one (R63). -/
theorem op_cases (r : Request) :
    r.op = 0x0 ∨ r.op = 0x1 ∨ r.op = 0x2 ∨ r.op = 0x3 ∨ r.op = 0x4 ∨ r.op = 0x5 ∨ r.op = 0x6 ∨
      (r.op = 0x7 ∨ r.op = 0x8) ∨ 9 ≤ r.op := by
  omega

/-- Two bound fields stand for two bounds, or one of them is reserved. -/
theorem bounds_cases (r : Request) :
    (∃ sb eb, r.startBound = some sb ∧ r.endBound = some eb) ∨ (r.startBound = none ∨ r.endBound = none) := by
  cases r.startBound <;> cases r.endBound <;> simp

theorem decoded_decode (r : Request) : Decoded r (decode r) := by
  rcases op_cases r with h | h | h | h | h | h | h | h | h
  · rw [decode_of_op_read h]; exact .read h
  · rw [decode_of_op_write h]; exact .write h
  · rw [decode_of_op_lookup h]; exact .lookup h
  · rw [decode_of_op_resetAll h]; exact .resetAll h
  · rw [decode_of_op_resetReg h]; exact .resetReg h
  · rw [decode_of_op_readBit h]; exact .readBit h
  · rw [decode_of_op_writeBit h]; exact .writeBit h
  · rcases bounds_cases r with ⟨sb, eb, hs, he⟩ | hb
    · rcases h with h | h
      · rw [decode_of_op_readBits h hs he]; exact .readBits sb eb h hs he
      · rw [decode_of_op_writeBits h hs he]; exact .writeBits sb eb h hs he
    · rw [decode_of_reserved_bound h hb]; exact .reservedBound h hb
  · rw [decode_of_reserved_op h]; exact .reservedOp h

theorem decoded_of_decode {r : Request} {o : Option Instr} (h : decode r = o) : Decoded r o := h ▸ decoded_decode r

/-! ### What is decoded is well-formed -/

theorem addrWf_addr (r : Request) : addrWf r.addr = true := decide_eq_true (r.cmd.extractLsb' 4 12).isLt

theorem indexWf_startValue (r : Request) : indexWf r.startValue = true :=
  decide_eq_true (r.cmd.extractLsb' 18 8).isLt

theorem indexWf_endValue (r : Request) : indexWf r.endValue = true := decide_eq_true (r.cmd.extractLsb' 28 8).isLt

/-- A bound read from a value field fits that field (R64, R65). -/
theorem wf_of_decodeBound {kind value : Nat} {b : Bound} (hv : indexWf value = true)
    (h : decodeBound kind value = some b) : b.wf = true := by
  unfold decodeBound at h
  split at h <;> cases h
  · rfl
  · exact hv
  · exact hv

theorem wellFormed_of_decode {r : Request} {i : Instr} (h : decode r = some i) : i.WellFormed := by
  have ha := addrWf_addr r
  have hn := indexWf_startValue r
  cases decoded_of_decode h with
  | resetAll => rfl
  | read | write | lookup | resetReg => exact ha
  | readBit | writeBit => simp [Instr.WellFormed, Instr.wf, ha, hn]
  | readBits sb eb _ hs he | writeBits sb eb _ hs he =>
    have hsb := wf_of_decodeBound hn hs
    have heb := wf_of_decodeBound (indexWf_endValue r) he
    simp [Instr.WellFormed, Instr.wf, ha, hsb, heb]

/-- Settles O3: the fields' widths bound what is read, and O2 gives the rest. -/
theorem decodedInstructionsAreWellFormed : Obligations.DecodedInstructionsAreWellFormed :=
  fun _ _ h => ⟨wellFormed_of_decode h, decode_encode (wellFormed_of_decode h)⟩

/-! ### The reserved encodings -/

theorem decodeBound_eq_none_iff {kind value : Nat} : decodeBound kind value = none ↔ 3 ≤ kind := by
  match kind with
  | 0 | 1 | 2 => simp [decodeBound]
  | _ + 3 => simp [decodeBound]

/-- A two-bit field is the reserved kind 3 exactly when its number is past the three kinds (R64, R70). -/
theorem three_le_toNat_iff {kind : BitVec 2} : 3 ≤ kind.toNat ↔ kind = 3#2 := by
  bv_omega

theorem startBound_eq_none_iff {r : Request} : r.startBound = none ↔ r.cmd.extractLsb' 16 2 = 3#2 :=
  decodeBound_eq_none_iff.trans three_le_toNat_iff

theorem endBound_eq_none_iff {r : Request} : r.endBound = none ↔ r.cmd.extractLsb' 26 2 = 3#2 :=
  decodeBound_eq_none_iff.trans three_le_toNat_iff

/-- R71's reserved encodings, by the fields the decoder reads. -/
theorem reserved_iff {r : Request} :
    r.Reserved ↔ 9 ≤ r.op ∨ ((r.op = 0x7 ∨ r.op = 0x8) ∧ (r.startBound = none ∨ r.endBound = none)) := by
  rw [startBound_eq_none_iff, endBound_eq_none_iff]
  rfl

theorem decode_eq_none_iff {r : Request} : decode r = none ↔ r.Reserved := by
  rw [reserved_iff]
  constructor
  · intro h
    cases decoded_of_decode h with
    | reservedBound hop hb => exact .inr ⟨hop, hb⟩
    | reservedOp hop => exact .inl hop
  · rintro (hop | ⟨hop, hb⟩)
    · exact decode_of_reserved_op hop
    · exact decode_of_reserved_bound hop hb

theorem opcode_of_decode {r : Request} {i : Instr} (h : decode r = some i) : i.opcode = r.op := by
  cases decoded_of_decode h <;> exact Eq.symm ‹r.op = _›

/-- Settles O4: the decoder gives nothing in the two reserved cases alone, and each op is read under its own code. -/
theorem decoderIsTotalAndReservesOnlyR71 : Obligations.DecoderIsTotalAndReservesOnlyR71 :=
  fun _ => ⟨decode_eq_none_iff, fun _ => opcode_of_decode⟩

/-! ### Fields that are not read -/

/-- The value field of an Unbounded bound, whose kind code is 0, is not read (R64). -/
theorem decodeBound_congr {kind kind' value value' : Nat} (hk : kind = kind') (hv : kind ≠ 0 → value = value') :
    decodeBound kind value = decodeBound kind' value' := by
  subst hk
  by_cases h : kind = 0
  · subst h; rfl
  · rw [hv h]

section
variable {r q : Request}

theorem decode_congr_readBits (hr : r.op = 0x7) (hq : q.op = 0x7) (ha : r.addr = q.addr)
    (hs : r.startBound = q.startBound) (he : r.endBound = q.endBound) : decode r = decode q := by
  simp [decode, hr, hq, ha, hs, he]

theorem decode_congr_writeBits (hr : r.op = 0x8) (hq : q.op = 0x8) (ha : r.addr = q.addr)
    (hs : r.startBound = q.startBound) (he : r.endBound = q.endBound) (hw : r.wdata = q.wdata) :
    decode r = decode q := by
  simp [decode, hr, hq, ha, hs, he, hw]

end

/-- Settles O5: for each op the decoder's equation names only the fields that R63 lists. -/
theorem ignoredFieldsChangeNothing : Obligations.IgnoredFieldsChangeNothing := by
  intro r q hop
  refine ⟨fun h => ?_, fun h ha => ?_, fun h ha hw => ?_, fun h ha hn => ?_, fun h ha hn hbit => ?_,
    fun h ha hsk hsv hek hev hw => ?_⟩
  · rw [decode_of_op_resetAll h, decode_of_op_resetAll (hop ▸ h)]
  · rcases h with h | h | h
    · rw [decode_of_op_read h, decode_of_op_read (hop ▸ h), ha]
    · rw [decode_of_op_lookup h, decode_of_op_lookup (hop ▸ h), ha]
    · rw [decode_of_op_resetReg h, decode_of_op_resetReg (hop ▸ h), ha]
  · rw [decode_of_op_write h, decode_of_op_write (hop ▸ h), ha, hw]
  · rw [decode_of_op_readBit h, decode_of_op_readBit (hop ▸ h), ha, hn]
  · rw [decode_of_op_writeBit h, decode_of_op_writeBit (hop ▸ h), ha, hn, hbit]
  · have hs : r.startBound = q.startBound := decodeBound_congr hsk hsv
    have he : r.endBound = q.endBound := decodeBound_congr hek hev
    rcases h with h | h
    · exact decode_congr_readBits h (hop ▸ h) ha hs he
    · exact decode_congr_writeBits h (hop ▸ h) ha hs he (hw h)

/-- Settles O1: the words are concrete, so the decoder computes each answer. -/
theorem sampleWordsDecode : Obligations.SampleWordsDecode := by
  unfold Obligations.SampleWordsDecode
  decide

/-- Settles O6: an address is one of the three mapped ones or none of them. -/
theorem addressDecodeIsTheBaselineMap : Obligations.AddressDecodeIsTheBaselineMap := by
  intro a
  rcases Machine.decodeAddr_cases a with ⟨rfl, h⟩ | ⟨rfl, h⟩ | ⟨rfl, h⟩ | ⟨h1, h2, h3, h⟩ <;> rw [h]
  · rfl
  · rfl
  · rfl
  · rw [if_neg h1, if_neg h2, if_neg h3]

end Sys2Proof

/-! ### What a request answers -/

namespace Sys2Proof.Machine

/-- Settles O8: the codes by definition, and the constructors of `Status` one by one. -/
theorem statusCodes : Obligations.StatusCodes := by
  refine ⟨rfl, rfl, rfl, rfl, fun st => ?_⟩
  cases st <;> decide

/-- Every effect of a request puts a response on the response port (R61). -/
theorem Effect.exists_response {i : Instr} {s t : State} (h : Effect i s t) : ∃ r, t.response = some r := by
  cases h <;> exact ⟨_, rfl⟩

/-- Settles O26: every instruction answers with an effect, and an effect responds and keeps the input ports. -/
theorem everyInstructionCompletes : Obligations.EveryInstructionCompletes := by
  intro i s
  obtain ⟨t, ht, heffect⟩ := exec_effect i s
  obtain ⟨r, hr⟩ := heffect.exists_response
  exact ⟨t, r, ht, hr, heffect.sameInputs⟩

/-- The response carries 0, or it is the OK response of an op that is neither of write type nor a reset (R69). -/
def DataOnlyFromReads (i : Instr) (t : State) : Prop :=
  ∃ st v, t.response = some ⟨st, v⟩ ∧ (v = 0 ∨ st = .ok ∧ i.isWriteType = false ∧ i.isReset = false)

theorem dataOnlyFromReads_of_zero (i : Instr) (t : State) (st : Status) :
    DataOnlyFromReads i (t.withResponse st 0) :=
  ⟨st, 0, rfl, .inl rfl⟩

/-- READ, LOOKUP, READ_BIT and READ_BITS alone answer data; an error, a write and a reset answer 0. -/
theorem exec_dataOnlyFromReads (i : Instr) (s : State) : Answers (DataOnlyFromReads i) (exec i s) := by
  have herr : ∀ e, Answers (DataOnlyFromReads i) (s.raise e) := fun e => .next (dataOnlyFromReads_of_zero i s e)
  have hdone : ∀ t : State, Answers (DataOnlyFromReads i) (t.respondOk 0) :=
    fun t => .next (dataOnlyFromReads_of_zero i t .ok)
  have hdata : i.isWriteType = false → i.isReset = false → ∀ v, Answers (DataOnlyFromReads i) (s.respondOk v) :=
    fun hw hr v => .next ⟨.ok, v, rfl, .inr ⟨rfl, hw, hr⟩⟩
  cases i with
  | read a => exact .withKind herr fun _ _ => hdata rfl rfl _
  | lookup a => exact .withKind herr fun _ _ => hdata rfl rfl _
  | readBit a n => exact .withKind herr fun _ _ => .ifIndex herr (hdata rfl rfl _)
  | readBits a sb eb => exact .withKind herr fun _ _ => .withInterval herr fun _ _ => hdata rfl rfl _
  | resetAll => exact hdone _
  | resetReg a => exact .withKind herr fun _ _ => hdone _
  | write a v => exact .withKind herr fun _ _ => .ifWritable herr fun _ => hdone _
  | writeBit a n bit => exact .withKind herr fun _ _ => .ifWritable herr fun _ => .ifIndex herr (hdone _)
  | writeBits a sb eb x =>
    exact .withKind herr fun _ _ => .ifWritable herr fun _ => .withInterval herr fun _ _ => hdone _

/-- Settles O25: data that is not 0 comes with OK and from an op that only reads. -/
theorem errorAndWriteResponsesCarryZero : Obligations.ErrorAndWriteResponsesCarryZero := by
  intro i s t st v h hresp hcase
  obtain ⟨st', v', hresp', hdata⟩ := (exec_dataOnlyFromReads i s).of_next h
  obtain ⟨rfl, rfl⟩ : st = st' ∧ v = v' := by simpa using hresp.symm.trans hresp'
  rcases hdata with hzero | ⟨hok, hw, hr⟩
  · exact hzero
  · simp [hok, hw, hr] at hcase

/-! ### A step, case by case -/

section
variable {s : State}

theorem step_of_porHigh (hp : s.porHigh = true) : step s = .next s.sampled.powerOn := by simp [step, hp]

theorem step_of_idle (hp : s.porHigh = false) (hr : s.requests = []) : step s = .next s.sampled := by
  simp [step, hp, hr]

theorem step_of_request {r : Request} {rest : List Request} (hp : s.porHigh = false) (hr : s.requests = r :: rest) :
    step s = serve r (s.sampled.withRequests rest) := by
  simp [step, hp, hr]

end

theorem serve_of_decode {r : Request} {i : Instr} (s : State) (h : decode r = some i) : serve r s = exec i s := by
  simp [serve, h]

theorem serve_of_reserved {r : Request} (s : State) (h : r.Reserved) :
    serve r s = .refused (.reservedEncoding r.cmd) := by
  simp [serve, decode_eq_none_iff.mpr h]

/-- A request that is not reserved is one of the ops, and serving it has that op's effect (R61, R71). -/
theorem serve_effect {r : Request} (s : State) (h : ¬ r.Reserved) :
    ∃ i, decode r = some i ∧ Answers (Effect i s) (serve r s) := by
  obtain ⟨i, hi⟩ := Option.ne_none_iff_exists'.mp (mt decode_eq_none_iff.mp h)
  exact ⟨i, hi, serve_of_decode s hi ▸ exec_effect i s⟩

/-- Settles O38: serving a request runs the instruction it decodes to. -/
theorem stepServesTheDecodedInstruction : Obligations.StepServesTheDecodedInstruction :=
  fun _ _ _ _ hp hr hd => (step_of_request hp hr).trans (serve_of_decode _ hd)

/-- Settles O41: the presented word is at the head, with `por` low, and serving it puts the ports back. -/
theorem presentedWordRunsNext : Obligations.PresentedWordRunsNext :=
  fun s nbits w _ hd => stepServesTheDecodedInstruction (s.withFetchWord nbits w) _ _ _ rfl rfl hd

/-- Settles O40: an idle step only samples the ports. -/
theorem idleStepKeepsEveryRegister : Obligations.IdleStepKeepsEveryRegister :=
  fun s hp hr => ⟨s.sampled, step_of_idle hp hr, csr_sampled s, hr, rfl⟩

/-- Settles O39: the decoder gives nothing for a reserved request alone, and any other has an effect. -/
theorem reservedRequestsAreRefused : Obligations.ReservedRequestsAreRefused := by
  intro s r rest hp hr
  rw [step_of_request hp hr]
  refine ⟨serve_of_reserved _, fun hres => ?_⟩
  obtain ⟨i, hi, t, ht, heffect⟩ := serve_effect (s.sampled.withRequests rest) hres
  exact ⟨i, t, hi, ht, Option.isSome_iff_exists.mpr heffect.exists_response⟩

/-! ### Runs of admissible requests -/

/-- A step from an admissible state answers an admissible one: requests leave the list and none joins it (R184). -/
theorem step_of_admissible {s : State} (h : s.Admissible) : ∃ t, step s = .next t ∧ t.Admissible := by
  cases hp : s.porHigh with
  | true => exact ⟨_, step_of_porHigh hp, h⟩
  | false =>
    cases hr : s.requests with
    | nil => exact ⟨_, step_of_idle hp hr, h⟩
    | cons r rest =>
      rw [State.Admissible, hr] at h
      obtain ⟨hhead, hrest⟩ := List.forall_mem_cons.mp h
      obtain ⟨i, -, t, ht, heffect⟩ := serve_effect (s.sampled.withRequests rest) hhead
      obtain ⟨hreq, -⟩ := heffect.sameInputs
      exact ⟨t, (step_of_request hp hr).trans ht, by rwa [State.Admissible, hreq]⟩

/-- Settles O47: by induction on the length; each step answers a state that is admissible again. -/
theorem admissibleRunsNeverStop : Obligations.AdmissibleRunsNeverStop := by
  intro n
  induction n with
  | zero => exact fun s h => ⟨s, rfl, h⟩
  | succ n ih =>
    intro s h
    obtain ⟨u, hstep, hu⟩ := step_of_admissible h
    obtain ⟨t, hrun, ht⟩ := ih u hu
    exact ⟨t, (runSteps_succ_of_next n hstep).trans hrun, ht⟩

end Sys2Proof.Machine

/-! ### The bit-range algebra, bit by bit -/

namespace Sys2Proof.Machine

section
variable {w : Nat}

/-- R87 on the bits: nothing is left at or above the field's width. -/
theorem getLsbD_truncField (x : BitVec w) (s e i : Nat) :
    (truncField x s e).getLsbD i = (decide (i < e - s) && x.getLsbD i) := by
  simp only [truncField, BitVec.getLsbD_and, getLsbD_lowmask]
  by_cases hi : i < w
  · simp [hi, Bool.and_comm]
  · simp [BitVec.getLsbD_of_ge x i (Nat.le_of_not_lt hi)]

/-- R87 as a number. -/
theorem truncField_toNat (x : BitVec w) (s e : Nat) : (truncField x s e).toNat = x.toNat % 2 ^ (e - s) := by
  apply Nat.eq_of_testBit_eq
  intro i
  rw [BitVec.testBit_toNat, getLsbD_truncField, Nat.testBit_mod_two_pow, BitVec.testBit_toNat]

/-- R86 on the bits. No validity is needed: past the word both sides are 0. -/
theorem getLsbD_extractField (v : BitVec w) (s e i : Nat) :
    (extractField v s e).getLsbD i = (decide (i < e - s) && v.getLsbD (s + i)) := by
  have hfield : s + i < e ↔ i < e - s := by omega
  simp only [extractField, BitVec.getLsbD_ushiftRight, BitVec.getLsbD_and, getLsbD_lowmask, hfield]
  by_cases hw : s + i < w
  · simp [hw, Bool.and_comm]
  · simp [BitVec.getLsbD_of_ge v (s + i) (Nat.le_of_not_lt hw)]

/-- R88 on the bits. The field must end within the word, or the bits of `x` past it are lost. -/
theorem getLsbD_insertField (old x : BitVec w) {s e : Nat} (he : e ≤ w) (i : Nat) :
    (insertField old s e x).getLsbD i = if s ≤ i ∧ i < e then x.getLsbD (i - s) else old.getLsbD i := by
  simp only [insertField, keepMask, BitVec.getLsbD_or, BitVec.getLsbD_and, BitVec.getLsbD_not,
    BitVec.getLsbD_shiftLeft, getLsbD_fieldMask, getLsbD_truncField]
  by_cases hs : s ≤ i
  · have hwidth : i - s < e - s ↔ i < e := by omega
    by_cases hie : i < e
    · simp [hs, hie, hwidth, Nat.lt_of_lt_of_le hie he]
    · simpa [hs, hie, hwidth] using BitVec.lt_of_getLsbD
  · simpa [hs, Nat.lt_of_not_le hs] using BitVec.lt_of_getLsbD

/-! ### The six laws (R91) -/

theorem extractField_insertField (old x : BitVec w) {s e : Nat} (he : e ≤ w) :
    extractField (insertField old s e x) s e = truncField x s e := by
  apply BitVec.eq_of_getLsbD_eq
  intro i _
  rw [getLsbD_extractField, getLsbD_truncField, getLsbD_insertField _ _ he]
  by_cases hi : i < e - s
  · have hin : s ≤ s + i ∧ s + i < e := by omega
    rw [if_pos hin, Nat.add_sub_cancel_left]
  · simp [hi]

theorem insertField_extractField (old : BitVec w) {s e : Nat} (he : e ≤ w) :
    insertField old s e (extractField old s e) = old := by
  apply BitVec.eq_of_getLsbD_eq
  intro i _
  rw [getLsbD_insertField _ _ he, getLsbD_extractField]
  split
  next hin =>
    have hwidth : i - s < e - s := by omega
    simp [hwidth, Nat.add_sub_cancel' hin.1]
  next => rfl

theorem insertField_insertField (old x y : BitVec w) {s e : Nat} (he : e ≤ w) :
    insertField (insertField old s e x) s e y = insertField old s e y := by
  apply BitVec.eq_of_getLsbD_eq
  intro i _
  simp only [getLsbD_insertField _ _ he]
  split <;> rfl

theorem extractField_full (v : BitVec w) : extractField v 0 w = v := by
  simp [extractField, lowmask_width]

theorem insertField_full (old x : BitVec w) : insertField old 0 w x = x := by
  apply BitVec.eq_of_getLsbD_eq
  intro i hi
  rw [getLsbD_insertField _ _ le_rfl, if_pos ⟨i.zero_le, hi⟩, Nat.sub_zero]

theorem bitWord_toNat_lt_two (bit : Bool) : (bitWord bit : BitVec w).toNat < 2 := by
  cases bit with
  | false => simp [bitWord]
  | true => simpa [bitWord] using Nat.lt_succ_of_le (Nat.mod_le 1 (2 ^ w))

/-- A bit as a word is already one bit wide. -/
theorem truncField_bitWord (n : Nat) (bit : Bool) : truncField (bitWord bit : BitVec w) n (n + 1) = bitWord bit := by
  apply BitVec.eq_of_toNat_eq
  rw [truncField_toNat, Nat.add_sub_cancel_left]
  exact Nat.mod_eq_of_lt (bitWord_toNat_lt_two bit)

theorem bitGet_bitPut_same (v : BitVec w) {n : Nat} (hn : n < w) (bit : Bool) :
    bitGet (bitPut v n bit) n = bitWord bit :=
  (extractField_insertField v _ hn).trans (truncField_bitWord n bit)

theorem bitGet_bitPut_of_ne (v : BitVec w) {n m : Nat} (hn : n < w) (hne : n ≠ m) (bit : Bool) :
    bitGet (bitPut v n bit) m = bitGet v m := by
  apply BitVec.eq_of_getLsbD_eq
  intro i _
  simp only [bitGet, bitPut, getLsbD_extractField, getLsbD_insertField _ _ (Nat.succ_le_of_lt hn)]
  by_cases hi : i < m + 1 - m
  · have hout : ¬ (n ≤ m + i ∧ m + i < n + 1) := by omega
    rw [if_neg hout]
  · simp only [hi, decide_false, Bool.false_and]

end

/-- Settles O10: the mask and the shift, bit by bit. -/
theorem extractTakesTheField : Obligations.ExtractTakesTheField :=
  fun _ v s e _ => getLsbD_extractField v s e

/-- Settles O11: the truncation as a number, and the two masked halves bit by bit. -/
theorem insertReplacesTheField : Obligations.InsertReplacesTheField :=
  fun _ old x s e ⟨_, he⟩ => ⟨truncField_toNat x s e, getLsbD_insertField old x he⟩

/-- Settles O12: the six laws above, together. -/
theorem bitRangeAlgebraLaws : Obligations.BitRangeAlgebraLaws := by
  intro w old x y v
  refine ⟨fun s e ⟨_, he⟩ => ⟨extractField_insertField old x he, fun i hout => ?_,
    insertField_extractField old he, insertField_insertField old x y he⟩,
    fun _ => ⟨extractField_full v, insertField_full old x⟩,
    fun n m hne hn _ => ⟨bitGet_bitPut_same v hn true, bitGet_bitPut_of_ne v hn hne true⟩⟩
  rw [getLsbD_insertField old x he, if_neg hout]

/-- Settles O9: the canonical bounds by definition, and the three failure conditions by arithmetic (`s ≥ w` follows
from the other two). -/
theorem boundsCanonicalise : Obligations.BoundsCanonicalise := by
  refine ⟨fun _ => ⟨rfl, rfl⟩, rfl, fun _ _ => ⟨rfl, rfl⟩, fun _ => rfl, fun _ _ _ => rfl, fun w s e => ?_⟩
  unfold ValidInterval
  omega

/-! ### A single bit as a range -/

/-- The interval of one bit is valid exactly when its index is (R83, R89). -/
theorem validInterval_singleton_iff (w n : Nat) : ValidInterval w n (n + 1) ↔ ValidIndex w n :=
  ⟨fun ⟨_, he⟩ => he, fun hn => ⟨Nat.lt_succ_self n, hn⟩⟩

/-- The range check of `(In, In)` is the index check, and its interval is that of the bit (R81, R82, R89). -/
theorem withInterval_included_same (s : State) (n : Nat) (body : Nat → Nat → Result) :
    s.withInterval (.included n) (.included n) body = s.ifIndex n (body n (n + 1)) :=
  if_congr (validInterval_singleton_iff W n) rfl rfl

theorem execReadBits_included_same (a n : Nat) (s : State) :
    execReadBits a (.included n) (.included n) s = execReadBit a n s := by
  simp only [execReadBits, withInterval_included_same]
  rfl

theorem execWriteBits_included_same (a n : Nat) (bit : Bool) (s : State) :
    execWriteBits a (.included n) (.included n) (bitWord bit) s = execWriteBit a n bit s := by
  simp only [execWriteBits, withInterval_included_same]
  rfl

/-- Settles O34: the two requests make the same checks and use the same interval. -/
theorem singleBitIsTheDegenerateRange : Obligations.SingleBitIsTheDegenerateRange :=
  fun a n bit s => ⟨(execReadBits_included_same a n s).symm, (execWriteBits_included_same a n bit s).symm⟩

end Sys2Proof.Machine

/-! ### The register capability and its constants -/

namespace Sys2Proof.Machine

/-- A masked write takes the new value's bit where the mask is set and keeps the old bit elsewhere. -/
theorem getLsbD_maskedWrite {w : Nat} (old v mask : BitVec w) (i : Nat) :
    ((old &&& ~~~mask) ||| (v &&& mask)).getLsbD i = if mask.getLsbD i then v.getLsbD i else old.getLsbD i := by
  simp only [BitVec.getLsbD_or, BitVec.getLsbD_and, BitVec.getLsbD_not]
  cases hm : mask.getLsbD i with
  | true => simp
  | false => simpa using BitVec.lt_of_getLsbD

/-- A kind that is not read-only has no hard-wired bit (R106, R109). -/
theorem getLsbD_wmask_of_writable {k : Kind} (hk : readOnly k = false) {i : Nat} (hi : i < W) :
    (wmask k).getLsbD i = true := by
  cases k with
  | fcsr => exact BitVec.getLsbD_allOnes.trans (decide_eq_true hi)
  | mvendorid => cases hk
  | misa => exact BitVec.getLsbD_allOnes.trans (decide_eq_true hi)

/-- R102 on the bits of the written register. -/
theorem getLsbD_csr_writeValue (s : State) (k : Kind) (v : Word) (i : Nat) :
    ((s.writeValue k v).csr k).getLsbD i = if (wmask k).getLsbD i then v.getLsbD i else (s.csr k).getLsbD i := by
  rw [State.writeValue, csr_setCsr_same, getLsbD_maskedWrite]

/-- Settles O13: the written register bit by bit, and the frame of a register store. -/
theorem writeValueAppliesTheMask : Obligations.WriteValueAppliesTheMask :=
  ⟨fun _ hi => ⟨getLsbD_wmask_of_writable rfl hi, getLsbD_wmask_of_writable rfl hi, BitVec.getLsbD_zero⟩,
    fun s k v => ⟨getLsbD_csr_writeValue s k v, fun _ hj => csr_setCsr_other s _ hj,
      ⟨requests_setCsr s k _, por_setCsr s k _⟩, response_setCsr s k _⟩⟩

/-- Settles O7: each entry of the table is the definition's own value for that kind. -/
theorem perKindConstants : Obligations.PerKindConstants :=
  ⟨⟨rfl, rfl, rfl, rfl, rfl⟩, ⟨rfl, rfl, rfl, rfl, rfl⟩, ⟨rfl, rfl, rfl, rfl, rfl⟩⟩

end Sys2Proof.Machine

/-! ### What changes a register -/

namespace Sys2Proof.Machine

/-- An effect that changes a register is a write-type op's or a reset's, and it answers OK with 0 (R126, R163). -/
theorem Effect.of_csr_ne {i : Instr} {s t : State} {k : Kind} (h : Effect i s t) (hne : t.csr k ≠ s.csr k) :
    (i.isWriteType = true ∨ i.isReset = true) ∧ t.response = some ⟨.ok, 0⟩ := by
  cases h with
  | answer st v => exact absurd (csr_withResponse s st v k) hne
  | store j v hw hc hj => exact ⟨.inl hw, rfl⟩
  | restore j hr hc => exact ⟨.inr hr, rfl⟩
  | restoreAll hi => subst hi; exact ⟨.inr rfl, rfl⟩

/-- Settles O42: an idle step changes no register, and a served request only by an effect that stores or restores. -/
theorem registersChangeOnlyByWritesResetsAndPowerOn :
    Obligations.RegistersChangeOnlyByWritesResetsAndPowerOn := by
  intro s t k h hne
  rcases step_next_cases h with ⟨hpor, -⟩ | ⟨-, -, rfl⟩ | ⟨-, r, rest, i, hreq, hd, hexec⟩
  · exact .inl hpor
  · exact absurd (csr_sampled s k) hne
  · obtain ⟨hop, hresp⟩ := (effect_of_exec hexec).of_csr_ne (k := k) (by simpa using hne)
    exact .inr ⟨r, rest, i, hreq, hd, hop, hresp⟩

/-! ### The whole-register operations -/

/-- An address that is none of the three of `CFG_BASE` is unmapped (R66). -/
theorem decodeAddr_of_ne {a : Nat} (hf : a ≠ 0x003) (hm : a ≠ 0x301) (hv : a ≠ 0xF11) : decodeAddr a = none := by
  rcases decodeAddr_cases a with ⟨h, -⟩ | ⟨h, -⟩ | ⟨h, -⟩ | ⟨-, -, -, h⟩
  · exact absurd h hf
  · exact absurd h hm
  · exact absurd h hv
  · exact h

/-- LOOKUP of a mapped address answers its kind's code and changes nothing (R123). -/
theorem exec_lookup_of_mapped {a : Nat} {k : Kind} (s : State) (hk : decodeAddr a = some k) :
    exec (.lookup a) s = .next (s.withResponse .ok (BitVec.ofNat W (kindCode k))) :=
  withKind_some hk

/-- RESET_REG of a mapped address restores its register, with no read-only check (R125). -/
theorem exec_resetReg_of_mapped {a : Nat} {k : Kind} (s : State) (hk : decodeAddr a = some k) :
    exec (.resetReg a) s = .next ((s.resetKind k).withResponse .ok 0) :=
  withKind_some hk

/-- The fold over the baseline map restores each of the three registers once (R124). -/
theorem resetMapped_cfgBase (s : State) :
    State.resetMapped cfgBase s =
      { s with fcsr := 0, misa := Config.misaReset, mvendorid := Config.mvendoridValue } := rfl

/-- `State.reset` holds every register at its power-on value (R181). -/
theorem csr_reset (k : Kind) : State.reset.csr k = powerOnValue k := by
  cases k <;> rfl

/-- Settles O14: READ answers what the register holds, and the vendor ID and reset clauses say what that is. -/
theorem readAnswersTheRegister : Obligations.ReadAnswersTheRegister := by
  refine ⟨fun _ => decode_of_op_read, fun s hs => ?_, fun a k hk => ?_, fun a s => ⟨fun k hk => ?_, fun hn => ?_⟩⟩
  · have hvendor : s.csr .mvendorid = Config.mvendoridValue := hs
    rw [exec_read_of_mapped s (k := .mvendorid) rfl, hvendor]
    rfl
  · rw [exec_read_of_mapped _ hk, csr_reset]
    rfl
  · exact exec_read_of_mapped s hk
  · exact exec_of_unmapped s rfl hn

/-- Settles O15: FCSR and MISA are writable, MVENDORID is read-only, and no other address is mapped. -/
theorem writeStoresTheWholeValue : Obligations.WriteStoresTheWholeValue := by
  refine ⟨fun _ => decode_of_op_write, fun v s => ⟨?_, ?_, ?_, fun a hf hm hv => ?_⟩⟩
  · exact exec_write_of_writable s v (k := .fcsr) rfl rfl
  · exact exec_write_of_writable s v (k := .misa) rfl rfl
  · exact exec_write_of_readOnly s v (k := .mvendorid) rfl rfl
  · exact exec_of_unmapped s rfl (decodeAddr_of_ne hf hm hv)

/-- Settles O16: each mapped address has its kind's code, and no other address is mapped. -/
theorem lookupAnswersTheKindCode : Obligations.LookupAnswersTheKindCode := by
  refine ⟨fun _ => decode_of_op_lookup, fun s => ⟨?_, ?_, ?_, fun a hf hm hv => ?_⟩⟩
  · exact exec_lookup_of_mapped s (k := .fcsr) rfl
  · exact exec_lookup_of_mapped s (k := .mvendorid) rfl
  · exact exec_lookup_of_mapped s (k := .misa) rfl
  · exact exec_of_unmapped s rfl (decodeAddr_of_ne hf hm hv)

/-- Settles O17: RESET_ALL makes no check, and its fold restores all three registers. -/
theorem resetAllRestoresEveryRegister : Obligations.ResetAllRestoresEveryRegister :=
  ⟨fun _ => decode_of_op_resetAll, fun s => congrArg (State.respondOk · 0) (resetMapped_cfgBase s)⟩

/-- Settles O18: a mapped register is restored whether or not it is read-only, and no other address is mapped. -/
theorem resetRegRestoresOneRegister : Obligations.ResetRegRestoresOneRegister := by
  refine ⟨fun _ => decode_of_op_resetReg, fun s => ⟨?_, ?_, ?_, fun a hf hm hv => ?_⟩⟩
  · exact exec_resetReg_of_mapped s (k := .fcsr) rfl
  · exact exec_resetReg_of_mapped s (k := .misa) rfl
  · exact exec_resetReg_of_mapped s (k := .mvendorid) rfl
  · exact exec_of_unmapped s rfl (decodeAddr_of_ne hf hm hv)

end Sys2Proof.Machine

/-! ### What decides a request's answer -/

namespace Sys2Proof.Machine

section
variable {s : State} {k : Kind} {body : Result}

theorem ifWritable_of_writable (hw : readOnly k = false) : s.ifWritable k body = body := by
  simp [State.ifWritable, hw]

theorem ifWritable_of_readOnly (hr : readOnly k = true) : s.ifWritable k body = s.raise .readOnlyRegister := by
  simp [State.ifWritable, hr]

theorem writeValue_respondOk_of_writable (v : Word) (hw : readOnly k = false) :
    (s.writeValue k v).respondOk 0 = .next ((s.setCsr k v).withResponse .ok 0) :=
  congrArg (State.respondOk · 0) (writeValue_of_writable s v hw)

end

section
variable {i : Instr} {a : Nat} {k : Kind}

/-- A write-type op on a read-only register fails before its index or range is looked at (R165). -/
theorem exec_of_readOnly (s : State) (ha : i.address = some a) (hk : decodeAddr a = some k)
    (hi : i.isWriteType = true) (hr : readOnly k = true) : exec i s = s.raise .readOnlyRegister := by
  cases i with
  | write | writeBit | writeBits => cases ha; exact (withKind_some hk).trans (ifWritable_of_readOnly hr)
  | _ => cases hi

/-- A bit request that no earlier check stops fails on a bad index or range (R164, R165). -/
theorem exec_of_badRange (s : State) (ha : i.address = some a) (hk : decodeAddr a = some k)
    (hw : i.isWriteType = true → readOnly k = false) (hb : i.badRange = true) :
    exec i s = s.raise .invalidBitRange := by
  cases i with
  | readBit =>
    cases ha
    exact (withKind_some hk).trans (if_neg (Nat.not_lt.mpr (of_decide_eq_true hb)))
  | writeBit =>
    cases ha
    exact (withKind_some hk).trans <| (ifWritable_of_writable (hw rfl)).trans <|
      if_neg (Nat.not_lt.mpr (of_decide_eq_true hb))
  | readBits =>
    cases ha
    exact (withKind_some hk).trans (if_neg (of_decide_eq_true hb))
  | writeBits =>
    cases ha
    exact (withKind_some hk).trans <| (ifWritable_of_writable (hw rfl)).trans <|
      if_neg (of_decide_eq_true hb)
  | _ => cases hb

end

/-! ### The field operations at a mapped address -/

section
variable {a n : Nat} {k : Kind} {sb eb : Bound}

theorem exec_readBit_of_valid (s : State) (hk : decodeAddr a = some k) (hn : n < W) :
    exec (.readBit a n) s = .next (s.withResponse .ok (bitGet (s.csr k) n)) :=
  (withKind_some hk).trans (if_pos hn)

theorem exec_readBits_of_valid (s : State) (hk : decodeAddr a = some k)
    (h : ValidInterval W (canonStart sb) (canonEnd W eb)) :
    exec (.readBits a sb eb) s =
      .next (s.withResponse .ok (extractField (s.csr k) (canonStart sb) (canonEnd W eb))) :=
  (withKind_some hk).trans (if_pos h)

theorem exec_writeBit_of_valid (s : State) (bit : Bool) (hk : decodeAddr a = some k) (hw : readOnly k = false)
    (hn : n < W) :
    exec (.writeBit a n bit) s = .next ((s.setCsr k (bitPut (s.csr k) n bit)).withResponse .ok 0) := by
  calc exec (.writeBit a n bit) s
      = s.ifWritable k (s.ifIndex n ((s.writeBit k n bit).respondOk 0)) := withKind_some hk
    _ = s.ifIndex n ((s.writeBit k n bit).respondOk 0) := ifWritable_of_writable hw
    _ = (s.writeBit k n bit).respondOk 0 := if_pos hn
    _ = _ := writeValue_respondOk_of_writable _ hw

theorem exec_writeBits_of_valid (s : State) (x : Word) (hk : decodeAddr a = some k) (hw : readOnly k = false)
    (h : ValidInterval W (canonStart sb) (canonEnd W eb)) :
    exec (.writeBits a sb eb x) s =
      .next ((s.setCsr k (insertField (s.csr k) (canonStart sb) (canonEnd W eb) x)).withResponse .ok 0) := by
  calc exec (.writeBits a sb eb x) s
      = s.ifWritable k (s.withInterval sb eb fun start fin => (s.writeBits k start fin x).respondOk 0) :=
        withKind_some hk
    _ = s.withInterval sb eb fun start fin => (s.writeBits k start fin x).respondOk 0 := ifWritable_of_writable hw
    _ = (s.writeBits k (canonStart sb) (canonEnd W eb) x).respondOk 0 := if_pos h
    _ = _ := writeValue_respondOk_of_writable _ hw

end

/-! ### One bit of a word -/

theorem getLsbD_bitWord {w : Nat} (bit : Bool) {i : Nat} (hi : i < w) :
    (bitWord bit : BitVec w).getLsbD i = (decide (i = 0) && bit) := by
  have hw : 0 < w := by omega
  cases bit <;> simp [bitWord, hw]

/-- `bit_get` answers the bit as a word (R89). -/
theorem bitGet_eq_bitWord {w : Nat} (v : BitVec w) (n : Nat) : bitGet v n = bitWord (v.getLsbD n) := by
  apply BitVec.eq_of_getLsbD_eq
  intro i hi
  rw [bitGet, getLsbD_extractField, getLsbD_bitWord _ hi, Nat.add_sub_cancel_left]
  by_cases h0 : i = 0 <;> simp [h0]

/-- `bit_put` on the bits: bit `n` takes the value and the others stay (R89). -/
theorem getLsbD_bitPut {w : Nat} (v : BitVec w) {n : Nat} (hn : n < w) (bit : Bool) (m : Nat) :
    (bitPut v n bit).getLsbD m = if m = n then bit else v.getLsbD m := by
  have hbit : n ≤ m ∧ m < n + 1 ↔ m = n := by omega
  rw [bitPut, getLsbD_insertField _ _ hn, if_congr hbit rfl rfl]
  split
  next h => simp [h, getLsbD_bitWord bit (Nat.zero_lt_of_lt hn)]
  next => rfl

/-! ### The field operations, from every state -/

theorem decode_of_reserved_kind {r : Request} (h : r.op = 0x7 ∨ r.op = 0x8) (hk : r.startKind = 3 ∨ r.endKind = 3) :
    decode r = none :=
  decode_of_reserved_bound h <| hk.imp (fun h => decodeBound_eq_none_iff.mpr h.ge)
    (fun h => decodeBound_eq_none_iff.mpr h.ge)

/-- A store into one register that answers OK leaves the other registers and the input ports (R30). -/
theorem store_frame (s : State) (k : Kind) (v : Word) :
    (∀ j, j ≠ k → ((s.setCsr k v).withResponse .ok 0).csr j = s.csr j) ∧
    State.SameInputs s ((s.setCsr k v).withResponse .ok 0) :=
  ⟨fun j hj => by simp [hj], by simp [State.SameInputs]⟩

/-- Settles O19: the index check after the address check, and `bit_get` is the bit as a word. -/
theorem readBitAnswersTheBit : Obligations.ReadBitAnswersTheBit := by
  refine ⟨fun _ => decode_of_op_readBit, fun a n s => ⟨fun k hk hn => ?_, fun k hk hn => ?_, fun hu => ?_⟩⟩
  · rw [exec_readBit_of_valid s hk hn, bitGet_eq_bitWord]
    rfl
  · exact exec_of_badRange s rfl hk nofun (decide_eq_true hn)
  · exact exec_of_unmapped s rfl hu

/-- Settles O20: the checks in order, then one store of the register with its bit put in place. -/
theorem writeBitChangesOneBit : Obligations.WriteBitChangesOneBit := by
  refine ⟨fun _ => decode_of_op_writeBit,
    fun a n bit s => ⟨fun k hk hw hn => ?_, fun k hk hw hn => ?_, fun k hk hr => ?_, fun hu => ?_⟩⟩
  · refine ⟨_, exec_writeBit_of_valid s bit hk hw hn, rfl, fun m => ?_, store_frame s k _⟩
    rw [csr_withResponse, csr_setCsr_same, getLsbD_bitPut _ hn]
  · exact exec_of_badRange s rfl hk (fun _ => hw) (decide_eq_true hn)
  · exact exec_of_readOnly s rfl hk rfl hr
  · exact exec_of_unmapped s rfl hu

/-- Settles O21: the range check after the address check, and the bits of the masked read. -/
theorem readBitsAnswersTheField : Obligations.ReadBitsAnswersTheField := by
  refine ⟨fun r h => ⟨fun _ _ => decode_of_op_readBits h, decode_of_reserved_kind (.inl h)⟩,
    fun a sb eb s => ⟨fun k hk hv => ?_, fun k hk hv => ?_, fun hu => ?_⟩⟩
  · exact ⟨_, exec_readBits_of_valid s hk hv, getLsbD_extractField _ _ _⟩
  · exact exec_of_badRange s rfl hk nofun (decide_eq_true hv)
  · exact exec_of_unmapped s rfl hu

/-- Settles O22: the checks in order, then one store of the register with its field replaced. -/
theorem writeBitsChangesTheField : Obligations.WriteBitsChangesTheField := by
  refine ⟨fun r h => ⟨fun _ _ => decode_of_op_writeBits h, decode_of_reserved_kind (.inr h)⟩,
    fun a sb eb x s => ⟨fun k hk hw hv => ?_, fun k hk hw hv => ?_, fun k hk hr => ?_, fun hu => ?_⟩⟩
  · refine ⟨_, exec_writeBits_of_valid s x hk hw hv, rfl, fun m => ?_, store_frame s k _⟩
    rw [csr_withResponse, csr_setCsr_same, getLsbD_insertField _ _ hv.2]
  · exact exec_of_badRange s rfl hk (fun _ => hw) (decide_eq_true hv)
  · exact exec_of_readOnly s rfl hk rfl hr
  · exact exec_of_unmapped s rfl hu

/-! ### A field or a bit read back -/

/-- Settles O31: the masked read of the masked write is the truncated value (R91). -/
theorem bitRangeRoundTrip : Obligations.BitRangeRoundTrip := by
  intro a k sb eb x s hk hw hv
  refine ⟨_, _, _, exec_writeBits_of_valid s x hk hw hv, exec_readBits_of_valid _ hk hv, rfl, ?_⟩
  rw [csr_withResponse, csr_setCsr_same, extractField_insertField _ x hv.2, truncField_toNat]

/-- Settles O32: bit `n` reads the 1 that was put there, and bit `m` reads as before (R91). -/
theorem singleBitRoundTrip : Obligations.SingleBitRoundTrip := by
  intro a k n m s hk hw hn hm hne
  refine ⟨_, _, _, _, exec_writeBit_of_valid s true hk hw hn, exec_readBit_of_valid _ hk hn, ?_,
    exec_readBit_of_valid _ hk hm, exec_readBit_of_valid s hk hm, ?_⟩
  · rw [response_withResponse, csr_withResponse, csr_setCsr_same, bitGet_bitPut_same _ hn]
    rfl
  · rw [response_withResponse, response_withResponse, csr_withResponse, csr_setCsr_same,
      bitGet_bitPut_of_ne _ hn hne.symm]

/-! ### The whole word as a range -/

/-- The range check of `(U, U)` always passes, and its interval is the whole word (R81, R82). -/
theorem withInterval_unbounded (s : State) (body : Nat → Nat → Result) :
    s.withInterval .unbounded .unbounded body = body 0 W :=
  if_pos (by decide)

theorem execReadBits_unbounded (a : Nat) (s : State) :
    execReadBits a .unbounded .unbounded s = execRead a s := by
  simp only [execReadBits, withInterval_unbounded, State.readBits, extractField_full]
  rfl

theorem execWriteBits_unbounded (a : Nat) (x : Word) (s : State) :
    execWriteBits a .unbounded .unbounded x s = execWrite a x s := by
  simp only [execWriteBits, withInterval_unbounded, State.writeBits, insertField_full]
  rfl

/-- Settles O33: over the whole word the field operations are the whole-register ones. -/
theorem fullRangeIsTheWholeRegister : Obligations.FullRangeIsTheWholeRegister :=
  fun a x s => ⟨execWriteBits_unbounded a x s, execReadBits_unbounded a s⟩

/-! ### The named-field pseudo-ops -/

/-- A request at a writable register whose index or range is good answers OK. -/
theorem exec_ok {i : Instr} {a : Nat} {k : Kind} (s : State) (ha : i.address = some a) (hk : decodeAddr a = some k)
    (hw : readOnly k = false) (hb : i.badRange = false) :
    ∃ t v, exec i s = .next t ∧ t.response = some ⟨.ok, v⟩ := by
  cases i with
  | resetAll => cases ha
  | read => cases ha; exact ⟨_, _, exec_read_of_mapped s hk, rfl⟩
  | write _ v => cases ha; exact ⟨_, _, exec_write_of_writable s v hk hw, rfl⟩
  | lookup => cases ha; exact ⟨_, _, exec_lookup_of_mapped s hk, rfl⟩
  | resetReg => cases ha; exact ⟨_, _, exec_resetReg_of_mapped s hk, rfl⟩
  | readBit =>
    cases ha
    exact ⟨_, _, exec_readBit_of_valid s hk (Nat.lt_of_not_le (of_decide_eq_false hb)), rfl⟩
  | writeBit _ _ bit =>
    cases ha
    exact ⟨_, _, exec_writeBit_of_valid s bit hk hw (Nat.lt_of_not_le (of_decide_eq_false hb)), rfl⟩
  | readBits =>
    cases ha
    exact ⟨_, _, exec_readBits_of_valid s hk (not_not.mp (of_decide_eq_false hb)), rfl⟩
  | writeBits _ _ _ x =>
    cases ha
    exact ⟨_, _, exec_writeBits_of_valid s x hk hw (not_not.mp (of_decide_eq_false hb)), rfl⟩

/-- A pseudo-op's request names FCSR or MISA, both writable (R150, R151). -/
theorem expand_address (p : PseudoOp) :
    ∃ a k, (expand p).address = some a ∧ decodeAddr a = some k ∧ readOnly k = false := by
  cases p with
  | fcsrReadFflags | fcsrWriteFflags | fcsrReadFrm | fcsrWriteFrm | fcsrReadFlag | fcsrWriteFlag =>
    exact ⟨addrFCSR, .fcsr, rfl, rfl, rfl⟩
  | misaReadExt | misaWriteExt | misaReadMxl | misaWriteMxl | misaReadExtBit | misaWriteExtBit =>
    exact ⟨addrMISA, .misa, rfl, rfl, rfl⟩

theorem flagBit_lt_width (flag : FcsrFlag) : flagBit flag < W := by
  cases flag <;> decide

/-- Every named field lies within the word (R150, R151). -/
theorem expand_badRange (p : PseudoOp) : (expand p).badRange = false := by
  cases p with
  | fcsrReadFlag flag | fcsrWriteFlag flag => exact decide_eq_false (Nat.not_le.mpr (flagBit_lt_width flag))
  | misaReadExtBit letter | misaWriteExtBit letter =>
    exact decide_eq_false (Nat.not_le.mpr (letter.isLt.trans (by decide)))
  | _ => rfl

theorem exec_expand_ok (p : PseudoOp) (s : State) :
    ∃ t v, exec (expand p) s = .next t ∧ t.response = some ⟨.ok, v⟩ := by
  obtain ⟨a, k, ha, hk, hw⟩ := expand_address p
  exact exec_ok s ha hk hw (expand_badRange p)

section
variable {w : Nat}

/-- A masked read is the slice of the word, zero-extended (R86). -/
theorem extractField_eq_setWidth (v : BitVec w) (s e : Nat) :
    extractField v s e = BitVec.setWidth w (v.extractLsb' s (e - s)) := by
  apply BitVec.eq_of_getLsbD_eq
  intro i hi
  simp only [getLsbD_extractField, BitVec.getLsbD_setWidth, BitVec.getLsbD_extractLsb', hi, decide_true, Bool.true_and]

/-- A masked write puts the low slice of its value in the field (R88). -/
theorem extractLsb'_insertField_same (old x : BitVec w) {s e : Nat} (he : e ≤ w) :
    (insertField old s e x).extractLsb' s (e - s) = x.extractLsb' 0 (e - s) := by
  apply BitVec.eq_of_getLsbD_eq
  intro i hi
  have hin : s ≤ s + i ∧ s + i < e := by omega
  simp [getLsbD_insertField _ _ he, hi, hin]

/-- A masked write leaves every slice below or above the field (R88). -/
theorem extractLsb'_insertField_outside (old x : BitVec w) {s e start len : Nat} (he : e ≤ w)
    (h : start + len ≤ s ∨ e ≤ start) :
    (insertField old s e x).extractLsb' start len = old.extractLsb' start len := by
  apply BitVec.eq_of_getLsbD_eq
  intro i hi
  have hout : ¬ (s ≤ start + i ∧ start + i < e) := by omega
  simp only [BitVec.getLsbD_extractLsb', getLsbD_insertField _ _ he, if_neg hout]

end

/-- Writing frm stores FCSR with the field `[5, 8)` replaced (R150). -/
theorem exec_fcsrWriteFrm (x : Word) (s : State) :
    exec (expand (.fcsrWriteFrm x)) s = .next ((s.setCsr .fcsr (insertField s.fcsr 5 8 x)).withResponse .ok 0) :=
  exec_writeBits_of_valid s x (k := .fcsr) rfl rfl (by decide)

/-- Settles O50: every expansion meets the checks, and frm is the interval `[5, 8)` of FCSR. -/
theorem pseudoOpsSucceedAndFrmIsItsField : Obligations.PseudoOpsSucceedAndFrmIsItsField := by
  refine ⟨exec_expand_ok, fun s => ?_, fun x s => ?_⟩
  · exact ⟨_, _, exec_readBits_of_valid s (k := .fcsr) rfl (by decide), rfl, extractField_eq_setWidth s.fcsr 5 8⟩
  · exact ⟨_, exec_fcsrWriteFrm x s, extractLsb'_insertField_same s.fcsr x (by decide),
      extractLsb'_insertField_outside s.fcsr x (by decide) (.inl (by decide)),
      extractLsb'_insertField_outside s.fcsr x (by decide) (.inr (by decide)), rfl, rfl⟩

/-- The command word of a WRITE_BIT does not depend on the bit. -/
theorem cmd_encode_writeBit {a n : Nat} {cmd : BitVec 36} (bit : Bool) (h : cmdWord 0x6 a 0 n 0 0 = cmd) :
    (encode (.writeBit a n bit)).cmd = cmd := h

/-- A WRITE_BITS carries its value as write data, and its command word does not depend on it. -/
theorem encode_writeBits {a : Nat} {sb eb : Bound} {cmd : BitVec 36} (x : Word)
    (h : cmdWord 0x8 a sb.kindCode sb.value eb.kindCode eb.value = cmd) :
    encode (.writeBits a sb eb x) = ⟨cmd, x⟩ :=
  congrArg (Request.mk · x) h

/-- Settles O49: the command words are computed from literal addresses, positions and bound kinds. -/
theorem pseudoOpCommandWords : Obligations.PseudoOpCommandWords :=
  fun x bit => ⟨rfl, encode_writeBits x rfl, rfl, encode_writeBits x rfl, rfl, rfl, rfl, rfl, rfl,
    cmd_encode_writeBit bit rfl, cmd_encode_writeBit bit rfl, cmd_encode_writeBit bit rfl,
    cmd_encode_writeBit bit rfl, cmd_encode_writeBit bit rfl, fun _ => rfl,
    rfl, encode_writeBits x rfl, rfl, encode_writeBits x rfl,
    rfl, cmd_encode_writeBit bit rfl, fun _ => ⟨rfl, rfl⟩⟩

end Sys2Proof.Machine

/-! ### Errors -/

namespace Sys2Proof.Machine

/-- A request that passes the read-only check and the range check answers OK (R165); only a write-type op makes the
first of them. -/
theorem exec_ok_of_checks_pass {i : Instr} {a : Nat} {k : Kind} (s : State) (ha : i.address = some a)
    (hk : decodeAddr a = some k) (hw : i.isWriteType = true → readOnly k = false) (hb : i.badRange = false) :
    ∃ t v, exec i s = .next t ∧ t.response = some ⟨.ok, v⟩ := by
  cases i with
  | write | writeBit | writeBits => exact exec_ok s ha hk (hw rfl) hb
  | resetAll => cases ha
  | read | lookup | resetReg => cases ha; exact ⟨_, _, withKind_some hk, rfl⟩
  | readBit =>
    cases ha
    exact ⟨_, _, exec_readBit_of_valid s hk (Nat.lt_of_not_le (of_decide_eq_false hb)), rfl⟩
  | readBits =>
    cases ha
    exact ⟨_, _, exec_readBits_of_valid s hk (not_not.mp (of_decide_eq_false hb)), rfl⟩

/-- Settles O23: each check fails only where every check before it passes, and where all pass the answer is OK. -/
theorem errorsAreReportedInOrder : Obligations.ErrorsAreReportedInOrder := by
  intro i s
  cases ha : i.address with
  | none =>
    obtain rfl := eq_resetAll_of_address_eq_none ha
    exact ⟨_, _, _, rfl, rfl, rfl⟩
  | some a =>
    cases hk : decodeAddr a with
    | none => exact ⟨_, _, _, exec_of_unmapped s ha hk, rfl, by simp only [hk]⟩
    | some k =>
      simp only [hk]
      by_cases hro : i.isWriteType = true ∧ readOnly k = true
      · exact ⟨_, _, _, exec_of_readOnly s ha hk hro.1 hro.2, rfl, (if_pos hro).symm⟩
      · rw [if_neg hro]
        have hw : i.isWriteType = true → readOnly k = false :=
          fun hi => Bool.eq_false_of_not_eq_true fun hr => hro ⟨hi, hr⟩
        cases hb : i.badRange with
        | true => exact ⟨_, _, _, exec_of_badRange s ha hk hw hb, rfl, rfl⟩
        | false =>
          obtain ⟨t, v, ht, hr⟩ := exec_ok_of_checks_pass s ha hk hw hb
          exact ⟨t, .ok, v, ht, hr, rfl⟩

/-- An effect that responds with an error only answers: stores and restores respond OK (R163). -/
theorem Effect.eq_withResponse_of_failed {i : Instr} {s t : State} {st : Status} {v : Word} (h : Effect i s t)
    (hr : t.response = some ⟨st, v⟩) (hst : st ≠ .ok) : t = s.withResponse st v := by
  cases h with
  | answer => cases hr; rfl
  | store | restore | restoreAll => cases hr; exact absurd rfl hst

/-- Settles O24: a failed request's effect is an answer alone, and an error carries 0 (O25). -/
theorem failedRequestsChangeNothing : Obligations.FailedRequestsChangeNothing := by
  intro i s t st v h hr hst
  obtain rfl : v = 0 := errorAndWriteResponsesCarryZero i s t st v h hr (.inl hst)
  exact (effect_of_exec h).eq_withResponse_of_failed hr hst

end Sys2Proof.Machine

/-! ### Reset and power-on -/

namespace Sys2Proof.Machine

/-- RESET_ALL makes no check: it restores every mapped register and answers OK (R124). -/
theorem exec_resetAll (s : State) :
    exec .resetAll s = .next ((State.resetMapped cfgBase s).withResponse .ok 0) := rfl

/-- RESET_ALL leaves every register at its power-on value, whatever it held before (R182, first law). -/
theorem csr_after_resetAll (s : State) (k : Kind) :
    ((State.resetMapped cfgBase s).withResponse .ok 0).csr k = powerOnValue k := by
  rw [csr_withResponse, csr_resetMapped]

/-- Construction leaves every register at its power-on value, whatever it held before (R104, R180). -/
theorem csr_powerOn (s : State) (k : Kind) : s.powerOn.csr k = powerOnValue k := by
  rw [powerOn_eq_resetMapped, csr_resetMapped]

/-- R181's values, register by register, of a state that holds the power-on value of every kind. -/
theorem registers_of_csr_eq_powerOnValue {t : State} (h : ∀ k, t.csr k = powerOnValue k) :
    t.fcsr = 0 ∧ t.misa = Config.misaReset ∧ t.mvendorid = Config.mvendoridValue :=
  ⟨h .fcsr, h .misa, h .mvendorid⟩

/-- Settles O35: reset, a power-on step and RESET_ALL each leave every kind at its power-on value, and RESET_REG the
named one. -/
theorem resetStateValues : Obligations.ResetStateValues := by
  refine ⟨registers_of_csr_eq_powerOnValue csr_reset, fun s hp => ?_, fun s => ?_, fun s => ?_⟩
  · exact ⟨_, step_of_porHigh hp, registers_of_csr_eq_powerOnValue (csr_powerOn s.sampled)⟩
  · exact ⟨_, exec_resetAll s, registers_of_csr_eq_powerOnValue (csr_after_resetAll s)⟩
  · obtain ⟨-, hreset⟩ := resetRegRestoresOneRegister
    obtain ⟨hfcsr, hmisa, hvendor, -⟩ := hreset s
    exact ⟨⟨_, hfcsr, rfl⟩, ⟨_, hmisa, rfl⟩, ⟨_, hvendor, rfl⟩⟩

/-- Settles O36: RESET_ALL, `State.reset` and a power-on step agree since each gives every register its power-on value;
that a second RESET_ALL changes nothing is RESET_ALL's idempotence (O28). -/
theorem resetLaws : Obligations.ResetLaws := by
  intro s
  have hreset := exec_resetAll s
  refine ⟨_, hreset, csr_after_resetAll s, requestsAreIdempotent _ _ _ hreset, fun k => ?_, fun p hp => ?_⟩
  · rw [csr_after_resetAll, csr_reset]
  · refine ⟨_, step_of_porHigh hp, fun k => ?_⟩
    rw [csr_after_resetAll, csr_powerOn]

/-- Settles O37: a step with `por` high is construction of the sampled state, which takes no request off the port. -/
theorem powerOnConstructsAndAcceptsNothing : Obligations.PowerOnConstructsAndAcceptsNothing := by
  intro s hp
  refine ⟨_, step_of_porHigh hp, fun _ k _ => csr_powerOn s.sampled k, ?_⟩
  rw [requests_powerOn, requests_sampled]

end Sys2Proof.Machine
